-- ==== Sys2Proof/Word.lean ====
section
/-! DEFINITION. Words, bytes, the two bus instances, the two cores, and a pair of things indexed by each of them. -/

namespace Sys2Proof

/-- One register access moves 32 bits (R50); an ERQ word has 32 bits (R70). -/
abbrev Word := BitVec 32

/-- R7: how many bus instances there are. -/
abbrev N_BUS : Nat := 2
/-- R7: how many cores there are. -/
abbrev N_CORES : Nat := 2
/-- R7: bits of the frequency operand, unsigned. -/
abbrev FREQ_WIDTH : Nat := 32
/-- R7: bits of the address operand. -/
abbrev ADDR_WIDTH : Nat := 8

/-- One byte of a buffer or of the bus. -/
abbrev Byte := BitVec 8

/-- The 11 significant bits of a command word (R71), as `TXQ` stores them (R52). -/
abbrev CmdWord := BitVec 11

/-- A spinlock-bank access (R72). -/
abbrev LkaWord := BitVec 6

/-- The two bus instances, ERQ field `BI` (R7 `N_BUS`, R70). -/
inductive BusId where
  | i2c0
  | i2c1
  deriving DecidableEq, Repr, Inhabited

/-- The two cores (R7 `N_CORES`, R39: the index is a constant of the agent). -/
inductive CoreId where
  | core0
  | core1
  deriving DecidableEq, Repr, Inhabited

/-- The instance's number, ERQ field `BI` (R70). -/
def BusId.number : BusId → Fin N_BUS
  | .i2c0 => 0
  | .i2c1 => 1

/-- The core's number (R39). -/
def CoreId.number : CoreId → Fin N_CORES
  | .core0 => 0
  | .core1 => 1

/-- One thing for each bus instance: each instance has its own state (R177). -/
structure PerBus (α : Type) where
  i2c0 : α
  i2c1 : α
  deriving DecidableEq, Repr, Inhabited

/-- One thing for each core (R200, "Per core"). -/
structure PerCore (α : Type) where
  core0 : α
  core1 : α
  deriving DecidableEq, Repr, Inhabited

def PerBus.get {α : Type} (p : PerBus α) : BusId → α
  | .i2c0 => p.i2c0
  | .i2c1 => p.i2c1

def PerBus.set {α : Type} (p : PerBus α) (b : BusId) (x : α) : PerBus α :=
  match b with
  | .i2c0 => { p with i2c0 := x }
  | .i2c1 => { p with i2c1 := x }

def PerCore.get {α : Type} (p : PerCore α) : CoreId → α
  | .core0 => p.core0
  | .core1 => p.core1

def PerCore.set {α : Type} (p : PerCore α) (c : CoreId) (x : α) : PerCore α :=
  match c with
  | .core0 => { p with core0 := x }
  | .core1 => { p with core1 := x }

/-- The direction of a command: `W` or `R` (R34 `DIR`, R35). -/
inductive Dir where
  | W
  | R
  deriving DecidableEq, Repr, Inhabited

end Sys2Proof
end

