-- ==== Sys2Proof/Syntax.lean ====
section
/-! DEFINITION. The eleven instructions of the opcode table, the operand record of a request, the result codes, and the
host-script lines a core's program is made of. -/

namespace Sys2Proof

/-- R7: `NUM_SPINLOCKS`, the size of the fixed bank. -/
abbrev NUM_SPINLOCKS : Nat := 32

/-- A lock of the bank, `n < NUM_SPINLOCKS` (R36). -/
abbrev LockId := Fin NUM_SPINLOCKS

/-- The instructions of the block, one constructor per row of the opcode table, with the operands their words carry
(R70, R71, R72). The operands that are not bit fields travel in the request's operand record (`Operands`, R69). -/
inductive Instr where
  /-- CONFIGURE (R171), ERQ. -/
  | configure (bi : BusId)
  /-- SETBAUD (R132), ERQ. -/
  | setbaud (bi : BusId)
  /-- WRITE (R146), ERQ: instance, `noStop`, target address. -/
  | write (bi : BusId) (ns : Bool) (a8 : BitVec ADDR_WIDTH)
  /-- READ (R158), ERQ: instance, `noStop`, target address. -/
  | read (bi : BusId) (ns : Bool) (a8 : BitVec ADDR_WIDTH)
  /-- TRANSFER (R174), ERQ: instance, target address. -/
  | transfer (bi : BusId) (a8 : BitVec ADDR_WIDTH)
  /-- SPIN_ACQ (R116), ERQ: the lock id of `A8`, which may lie outside the bank (R73). -/
  | spinAcq (id : Nat)
  /-- SPIN_REL (R118), ERQ. -/
  | spinRel (id : Nat)
  /-- CMD_WRITE (R95), CMDW. -/
  | cmdWrite (dat : Byte) (stop restart : Bool)
  /-- CMD_READ (R97), CMDW; the controller ignores `dat` (R75). -/
  | cmdRead (dat : Byte) (stop restart : Bool)
  /-- LOCK_TAS (R110), LKA. -/
  | lockTas (n : LockId)
  /-- LOCK_CLR (R111), LKA. -/
  | lockClr (n : LockId)
  deriving DecidableEq, Repr

/-- The operand record of a request (R69): the operands that are not bit fields. -/
structure Operands where
  freq : BitVec FREQ_WIDTH
  wbuf : Nat
  wlen : Nat
  rbuf : Nat
  rlen : Nat
  tmo  : Nat
  deriving DecidableEq, Repr, Inhabited

def Operands.zero : Operands := ⟨0, 0, 0, 0, 0, 0⟩

/-- Result codes (R181). `DataError`'s byte index is `RESULT_INDEX`. -/
inductive Result where
  | OK
  | InvalidBaudrate
  | InvalidTargetAddress
  | Timeout
  | BusError
  | DataError
  deriving DecidableEq, Repr, Inhabited

/-- The numeric codes of R181. -/
def Result.code : Result → Nat
  | .OK => 0
  | .InvalidBaudrate => 1
  | .InvalidTargetAddress => 2
  | .Timeout => 3
  | .BusError => 4
  | .DataError => 5

/-- `<reg|imm>` of R86. -/
inductive Val where
  | imm (n : Nat)
  | reg (r : Nat)
  deriving DecidableEq, Repr

/-- `<addr>` of R86: a constant or `<reg>+<imm>`. -/
inductive Addr where
  | const (a : Nat)
  | off (r imm : Nat)
  deriving DecidableEq, Repr

/-- The lines of a host script (R86): the program of a core and of its handlers (R40, R191). Not hardware. Labels are line
indices. -/
inductive ScriptLine where
  /-- A request: its ERQ word and its operand record (R69, R82). -/
  | req (q : Word) (o : Operands)
  | stb (a : Addr) (v : Val)
  | ldb (r : Nat) (a : Addr)
  | stw (a : Addr) (v : Val)
  | ldw (r : Nat) (a : Addr)
  /-- `B <label>`. -/
  | b (t : Nat)
  /-- `B.OK <label>`. -/
  | bOK (t : Nat)
  /-- `B.NOK <label>`. -/
  | bNOK (t : Nat)
  /-- `B.EQ <code> <label>`. -/
  | bEQ (code : Result) (t : Nat)
  /-- `B.VEQ <reg>, <reg|imm>, <label>`. -/
  | bVEQ (r : Nat) (v : Val) (t : Nat)
  /-- `B.VNE <reg>, <reg|imm>, <label>`. -/
  | bVNE (r : Nat) (v : Val) (t : Nat)
  | addi (rd rs imm : Nat)
  | halt
  /-- The core's own software writes `IE[c]` (R37, R121, R192). Not in R86's notation: DESIGN CHOICE, log 18. -/
  | setIE (v : Bool)
  deriving DecidableEq, Repr

end Sys2Proof
end

