-- ==== Sys2Proof/Config.lean ====
section
/-! DEFINITION. The parameters of R7 under the spec's own names, and the free values: what the oracle answers when no input
gives the answer. -/

namespace Sys2Proof.Config

/-- R7: the fixed input clock, Hz. -/
def CLK_IN : Nat := 125000000
/-- R7: the least high and low count. -/
def CNT_MIN : Nat := 8
/-- R7, decision D7: the greatest high and low count. -/
def REG_MAX : Nat := 0xFFFF
/-- R7: Hz. -/
def HOLD_FREQ_THRESHOLD : Nat := 1000000
/-- R7, decision D6: ns, below the threshold. -/
def HOLD_NS_SLOW : Nat := 300
/-- R7, decision D6: ns, at or above the threshold. -/
def HOLD_NS_FAST : Nat := 120
/-- R7, decision D10: bits of the spike-suppression register. -/
def SPKLEN_WIDTH : Nat := 8
/-- R7, decision D6: bits of the data-hold field. -/
abbrev HOLD_WIDTH : Nat := 16
/-- R7, decision D3. -/
def ABRT_ADDR_NACK_BIT : Nat := 0
/-- R7, decision D3. -/
def ABRT_TXDATA_NACK_BIT : Nat := 3
/-- R19, decision D43: the one speed setting. -/
def SPEED_FAST : BitVec 2 := 2

/-- R7: `WRITE_TIMEOUT_POLARITY` (decision D4). -/
inductive Polarity where
  | normalized
  | legacy_inverted
  deriving DecidableEq, Repr

/-- R7: `SPKLEN_OVERFLOW` (decision D10). -/
inductive SpklenOverflow where
  | truncate
  | refuse
  deriving DecidableEq, Repr

/-- A region of ordinary memory that exists: part of the launch memory (R45, R55). -/
structure Region where
  base : Nat
  size : Nat
  deriving DecidableEq, Repr

/-- The parameters a run fixes at its launch (R7, R40, R55). They are data of the state, so that a statement about every
state is a statement about every setting; no step changes them. `IRQ_LOCK_ID` is the id the out-of-scope installer reserves
(R114): no rule of the block reads it. -/
structure Params where
  TXQ_DEPTH : Nat
  RXQ_DEPTH : Nat
  WRITE_TIMEOUT_POLARITY : Polarity
  DISABLE_ENDS_TRANSACTION : Bool
  OTHER_ABORTS : Bool
  SPKLEN_OVERFLOW : SpklenOverflow
  IRQ_LOCK_ID : Fin NUM_SPINLOCKS
  LAUNCH_MEM : List Region
  deriving DecidableEq, Repr

/-- R7's defaults; the launch memory of 95_test_vectors.md part 3 (DESIGN CHOICE, log 9); `IRQ_LOCK_ID` has no default in R7
(DESIGN CHOICE 0, log 37). -/
def Params.default : Params where
  TXQ_DEPTH := 16
  RXQ_DEPTH := 16
  WRITE_TIMEOUT_POLARITY := .normalized
  DISABLE_ENDS_TRANSACTION := false
  OTHER_ABORTS := true
  SPKLEN_OVERFLOW := .truncate
  IRQ_LOCK_ID := 0
  LAUNCH_MEM := [⟨0, 0x400⟩]

/-- R7: any depth of at least one entry is admitted. -/
def Params.wf (p : Params) : Bool := decide (1 ≤ p.TXQ_DEPTH) && decide (1 ≤ p.RXQ_DEPTH)

/-- Does the byte address `a` lie in the launch memory (R56)? -/
def Params.inMemory (p : Params) (a : Nat) : Bool :=
  p.LAUNCH_MEM.any fun r => decide (r.base ≤ a) && decide (a < r.base + r.size)

/-- A scheduler's pick: the agent that steps, and for `CTL[i]` which of its steps (R11, R40, R89); `irq c` lets a handler
preempt core `c` (R191); `ahead c a v` announces that core `c` will write `v` to byte `a` (R61; log 12). -/
inductive Pick where
  | core (c : CoreId)
  | irq (c : CoreId)
  | eng (b : BusId)
  | load (b : BusId)
  | perform (b : BusId)
  | stop (b : BusId)
  | otherAbort (b : BusId)
  | bank
  | ahead (c : CoreId) (a : Nat) (v : Byte)
  deriving DecidableEq, Repr, Inhabited

/-- `draw_abort()` (R90) is a non-zero 32-bit value: one bit that is set, and the rest. -/
structure AbortDraw where
  bit : Fin 32
  more : Word
  deriving DecidableEq, Repr, Inhabited

def AbortDraw.value (d : AbortDraw) : Word := d.more ||| ((1 : Word) <<< d.bit.val)

/-- The scheduler's choice when no input gives it (R11, R40). Free: log 2. -/
opaque freePick : Nat → Pick
/-- `draw_ack()`, true for ACK (R90). Free: log 2. -/
opaque freeAck : Nat → Bool
/-- `draw_byte()` (R90). Free: log 2. -/
opaque freeByte : Nat → Byte
/-- `draw_abort()` (R90, R102). Free: log 2, log 25. -/
opaque freeAbort : Nat → AbortDraw
/-- `extra` of an abort (R101). Free: log 2, log 33. -/
opaque freeExtra : Nat → Word
/-- `draw_timeout()` (R193). Free: log 2. -/
opaque freeTimeout : Nat → Bool
/-- The draw over the candidates of a racy read (R61). Free: log 2, log 12. -/
opaque freeChoice : Nat → Nat
/-- The handler oracle (R191). Free: log 2, log 27. -/
opaque freeHandler : Nat → List ScriptLine

end Sys2Proof.Config
end

