-- ==== Sys2Proof/WellFormed.lean ====
section
/-! DEFINITION. Which instruction terms an encoding exists for. -/

namespace Sys2Proof

/-- The bounds the types do not already hold: a lock id of SPIN_ACQ and SPIN_REL fills the 8-bit field `A8` (R70, R73).
Ids from `NUM_SPINLOCKS` to 255 are legal encodings (R78). -/
def Instr.wf : Instr → Bool
  | .configure _ => true
  | .setbaud _ => true
  | .write _ _ _ => true
  | .read _ _ _ => true
  | .transfer _ _ => true
  | .spinAcq id => decide (id < 256)
  | .spinRel id => decide (id < 256)
  | .cmdWrite _ _ _ => true
  | .cmdRead _ _ _ => true
  | .lockTas _ => true
  | .lockClr _ => true

end Sys2Proof
end

