-- ==== Sys2Proof/Decode.lean ====
section
/-! DEFINITION. The decoder, by the port a word arrives on (R81): total, rejecting by name; and the encoder, written from the
same tables (R70 to R72, R76, R79, R80). -/

namespace Sys2Proof

/-- The port a word arrives on tells its format (R81). -/
inductive Port where
  /-- A request to the block: format ERQ. -/
  | request
  /-- A `DATA_CMD` write: format CMDW. -/
  | dataCmd
  /-- A spinlock-bank access: format LKA. -/
  | lockBank
  deriving DecidableEq, Repr

/-- Why an ERQ word is illegal (R77). -/
inductive DecodeError where
  /-- `OP` is 0x0 or 0x8 to 0xF. -/
  | reservedOp
  /-- A must-be-zero field of R70 is not zero for its `OP`. -/
  | mustBeZero
  deriving DecidableEq, Repr

/-- A row of the opcode table: `w` is the row's word if `w & mask = pattern`. -/
structure OpRow where
  port : Port
  mask : Word
  pattern : Word
  deriving DecidableEq, Repr

def OpRow.hits (r : OpRow) (w : Word) : Bool := w &&& r.mask == r.pattern

/-- R76. -/
def rowConfigure : OpRow := ⟨.request, 0xFFFFFFDF, 0x00000001⟩
def rowSetbaud : OpRow := ⟨.request, 0xFFFFFFDF, 0x00000002⟩
def rowWrite : OpRow := ⟨.request, 0xFFFF00CF, 0x00000003⟩
def rowRead : OpRow := ⟨.request, 0xFFFF00CF, 0x00000004⟩
def rowTransfer : OpRow := ⟨.request, 0xFFFF00DF, 0x00000005⟩
def rowSpinAcq : OpRow := ⟨.request, 0xFFFF00FF, 0x00000006⟩
def rowSpinRel : OpRow := ⟨.request, 0xFFFF00FF, 0x00000007⟩
/-- R79. -/
def rowCmdWrite : OpRow := ⟨.dataCmd, 0x100, 0x000⟩
def rowCmdRead : OpRow := ⟨.dataCmd, 0x100, 0x100⟩
/-- R80. -/
def rowLockTas : OpRow := ⟨.lockBank, 0x20, 0x00⟩
def rowLockClr : OpRow := ⟨.lockBank, 0x20, 0x20⟩

/-- The whole opcode table. -/
def opRows : List OpRow :=
  [rowConfigure, rowSetbaud, rowWrite, rowRead, rowTransfer, rowSpinAcq, rowSpinRel,
   rowCmdWrite, rowCmdRead, rowLockTas, rowLockClr]

/-- R73: `OP = q[3:0]`. -/
def erqOP (q : Word) : BitVec 4 := q.extractLsb' 0 4
/-- R73: `NS = (q[4] = 1)`. -/
def erqNS (q : Word) : Bool := q.getLsbD 4
/-- R73: `i = q[5]`. -/
def erqBI (q : Word) : BusId := if q.getLsbD 5 then .i2c1 else .i2c0
/-- R73: `A8 = q[15:8]`, unsigned. -/
def erqA8 (q : Word) : BitVec ADDR_WIDTH := q.extractLsb' 8 8

/-- R76, R77: the ERQ decoder. -/
def decodeErq (q : Word) : Except DecodeError Instr :=
  if rowConfigure.hits q then .ok (.configure (erqBI q))
  else if rowSetbaud.hits q then .ok (.setbaud (erqBI q))
  else if rowWrite.hits q then .ok (.write (erqBI q) (erqNS q) (erqA8 q))
  else if rowRead.hits q then .ok (.read (erqBI q) (erqNS q) (erqA8 q))
  else if rowTransfer.hits q then .ok (.transfer (erqBI q) (erqA8 q))
  else if rowSpinAcq.hits q then .ok (.spinAcq (erqA8 q).toNat)
  else if rowSpinRel.hits q then .ok (.spinRel (erqA8 q).toNat)
  else if erqOP q = 0 ∨ 8 ≤ (erqOP q).toNat then .error .reservedOp
  else .error .mustBeZero

/-- R75, R79: the CMDW decoder. No word is illegal. -/
def decodeCmdw (w : CmdWord) : Instr :=
  if w.getLsbD 8 then .cmdRead (w.extractLsb' 0 8) (w.getLsbD 9) (w.getLsbD 10)
  else .cmdWrite (w.extractLsb' 0 8) (w.getLsbD 9) (w.getLsbD 10)

/-- R72, R80: the lock id `N = w[4:0]`. -/
def lkaN (w : LkaWord) : LockId := ⟨(w.extractLsb' 0 5).toNat, (w.extractLsb' 0 5).isLt⟩

/-- R72, R80: the LKA decoder. No word is illegal. -/
def decodeLka (w : LkaWord) : Instr :=
  if w.getLsbD 5 then .lockClr (lkaN w) else .lockTas (lkaN w)

/-- The decoder of the block: the word `w` arriving on port `p`. A `DATA_CMD` write keeps bits [10:0] (R52), a bank access
has six bits. -/
def decode (p : Port) (w : Word) : Except DecodeError Instr :=
  match p with
  | .request => decodeErq w
  | .dataCmd => .ok (decodeCmdw (w.setWidth 11))
  | .lockBank => .ok (decodeLka (w.setWidth 6))

/-- The port an instruction's word arrives on. -/
def Instr.port : Instr → Port
  | .configure _ => .request
  | .setbaud _ => .request
  | .write _ _ _ => .request
  | .read _ _ _ => .request
  | .transfer _ _ => .request
  | .spinAcq _ => .request
  | .spinRel _ => .request
  | .cmdWrite _ _ _ => .dataCmd
  | .cmdRead _ _ _ => .dataCmd
  | .lockTas _ => .lockBank
  | .lockClr _ => .lockBank

/-- The field `BI` (R70). -/
def BusId.bit (b : BusId) : BitVec 1 := BitVec.ofNat 1 b.number.val

/-- R70: the ERQ word of its fields, `[31:16] 0, A8 [15:8], [7:6] 0, BI [5], NS [4], OP [3:0]`. -/
def erqWord (op : BitVec 4) (ns : Bool) (bi : BitVec 1) (a8 : BitVec ADDR_WIDTH) : Word :=
  (0 : BitVec 16) ++ a8 ++ (0 : BitVec 2) ++ bi ++ BitVec.ofBool ns ++ op

/-- R71: the command word `RESTART [10], STOP [9], CMD [8], DAT [7:0]`. -/
def cmdw (restart stop cmd : Bool) (dat : Byte) : CmdWord :=
  BitVec.ofBool restart ++ BitVec.ofBool stop ++ BitVec.ofBool cmd ++ dat

/-- R72: the LKA word `W [5], N [4:0]`. -/
def lkaWord (w : Bool) (n : LockId) : LkaWord := BitVec.ofBool w ++ BitVec.ofNat 5 n.val

/-- The word of an instruction, zero-extended to a 32-bit access. -/
def encode : Instr → Word
  | .configure bi => erqWord 0x1 false bi.bit 0
  | .setbaud bi => erqWord 0x2 false bi.bit 0
  | .write bi ns a8 => erqWord 0x3 ns bi.bit a8
  | .read bi ns a8 => erqWord 0x4 ns bi.bit a8
  | .transfer bi a8 => erqWord 0x5 false bi.bit a8
  | .spinAcq id => erqWord 0x6 false 0 (BitVec.ofNat 8 id)
  | .spinRel id => erqWord 0x7 false 0 (BitVec.ofNat 8 id)
  | .cmdWrite dat stop restart => (cmdw restart stop false dat).setWidth 32
  | .cmdRead dat stop restart => (cmdw restart stop true dat).setWidth 32
  | .lockTas n => (lkaWord false n).setWidth 32
  | .lockClr n => (lkaWord true n).setWidth 32

/-- The row of the opcode table an instruction's word belongs to. -/
def Instr.row : Instr → OpRow
  | .configure _ => rowConfigure
  | .setbaud _ => rowSetbaud
  | .write _ _ _ => rowWrite
  | .read _ _ _ => rowRead
  | .transfer _ _ => rowTransfer
  | .spinAcq _ => rowSpinAcq
  | .spinRel _ => rowSpinRel
  | .cmdWrite _ _ _ => rowCmdWrite
  | .cmdRead _ _ _ => rowCmdRead
  | .lockTas _ => rowLockTas
  | .lockClr _ => rowLockClr

/-- The port of a word the opcode table gives in `nbits` bits: LKA words fit one byte, CMDW words two, ERQ words four. A
four-byte word that no ERQ row takes and whose `OP` and bits [31:11] are 0 is the 32-bit `DATA_CMD` write of a command word
(R71). DESIGN CHOICE, log 21: the table's words do not carry their port. -/
def tablePort (nbits w : Nat) : Port :=
  if nbits ≤ 8 then .lockBank
  else if nbits ≤ 16 then .dataCmd
  else if (opRows.any fun r => r.port = .request && r.hits (BitVec.ofNat 32 w)) then .request
  else if w % 16 = 0 ∧ w < 2 ^ 11 then .dataCmd
  else .request

/-- What the decoder reads from the table's word `w` of `nbits` bits: `none` where it refuses. -/
def decodeTableWord (nbits w : Nat) : Option Instr :=
  match decode (tablePort nbits w) (BitVec.ofNat 32 (w % 2 ^ nbits)) with
  | .ok i => some i
  | .error _ => none

end Sys2Proof
end

