-- ==== Sys2Proof/Machine/State.lean ====
section
/-! DEFINITION. Everything the spec gives the machine, as plain data; the reasons a run stops; the launch state. Field names
are the spec's in lower case. -/

namespace Sys2Proof.Machine

open Sys2Proof.Config (Params Pick AbortDraw Polarity SpklenOverflow HOLD_WIDTH)

/-! ## Engine context -/

/-- FSM states of `ENG[i]` (R17). -/
inductive EngState where
  | IDLE
  | CHECK
  | SETUP
  | ISSUE
  | WAIT_TX_EMPTY
  | CHECK_ABORT
  | WAIT_STOP
  | CLEAR_STOP
  | WAIT_SPACE
  | WAIT_RX
  | POP
  | FINISH
  | RESET_BLOCK
  | PROGRAM
  deriving DecidableEq, Repr

/-- The request in progress (R14 `OP`). -/
inductive EngOp where
  | CONFIGURE
  | SETBAUD
  | WRITE
  | READ
  | TRANSFER
  deriving DecidableEq, Repr

/-- Which phase of TRANSFER runs (R174 steps 2 and 3). -/
inductive Phase where
  | write
  | read
  deriving DecidableEq, Repr

/-- The engine context of one instance (R14 to R16), with the operand record of the request it runs (R69). `ron` is `none`
while unwritten (R41). `sub` is the model's own position among the primitive statements of one FSM state (R57; log 15). -/
structure Engine where
  state : EngState
  sub : Nat
  op : EngOp
  addr : BitVec ADDR_WIDTH
  len : Nat
  k : Nat
  ns : Bool
  budget : Bool
  abort : Bool
  lastabrt : Word
  kabrt : Nat
  result : Result
  resultIndex : Nat
  ron : Option Bool
  configured : Bool
  requester : CoreId
  operands : Operands
  phase : Phase
  byte : Byte
  deriving DecidableEq, Repr

/-! ## Controller -/

/-- `CON` (R19), each field `none` while unwritten (R42). -/
structure Con where
  masterMode : Option Bool
  speed : Option (BitVec 2)
  addr10Master : Option Bool
  restartEn : Option Bool
  txEmptyCtrl : Option Bool
  deriving DecidableEq, Repr

/-- `DMA_CR` (R26). -/
structure DmaCr where
  rdmae : Option Bool
  tdmae : Option Bool
  deriving DecidableEq, Repr

/-- Bus events (R35). -/
inductive BusEvent where
  | START
  | RESTART
  | ADDR (a : BitVec 7) (rw : Dir)
  | ACK
  | NACK
  | DATA_W (b : Byte)
  | DATA_R (b : Byte)
  | STOP
  deriving DecidableEq, Repr

/-- The controller of one instance: registers (R19 to R26), FIFOs (R27, R28), flags (R29, R30), reset-control bit (R33),
hidden state (R34) and trace (R35). `none` in a register or in a field is "unwritten" (R41, R42). -/
structure Ctl where
  con : Con
  tar : Option (BitVec 7)
  en : Option Bool
  fsHcnt : Option (BitVec 16)
  fsLcnt : Option (BitVec 16)
  fsSpklen : Option (BitVec 8)
  txHold : Option (BitVec HOLD_WIDTH)
  txTl : Option Word
  rxTl : Option Word
  dmaCr : DmaCr
  txq : List CmdWord
  rxq : List Byte
  abrtSrc : Word
  stopDet : Bool
  resetCtl : Bool
  busOpen : Bool
  dir : Dir
  inflight : Option CmdWord
  pendingStop : Bool
  trace : List BusEvent
  deriving DecidableEq, Repr

/-- One bus instance: its engine and its controller (R177). -/
structure Bus where
  eng : Engine
  ctl : Ctl
  deriving DecidableEq, Repr

/-! ## Lock bank, cores, memory -/

/-- How many writes and how many release fences of one core something is ordered after (R61 to R64; log 12). -/
structure Clock where
  writes : Nat
  fences : Nat
  deriving DecidableEq, Repr

/-- The same, of each core. -/
abbrev View := PerCore Clock

/-- A lock register (R36) with what its clears have published (R64). -/
structure LockReg where
  claimed : Bool
  view : View
  deriving DecidableEq, Repr

/-- A guard of `HELD[c]` (R38). -/
structure Guard where
  id : LockId
  savedIE : Bool
  deriving DecidableEq, Repr

/-- Where a core stands inside its script's line: between lines, waiting for an engine it has issued a request to (R58), with
the result that engine returned to it (R18), inside SPIN_ACQ (R116) or SPIN_REL (R118) at the named statement, or inside a
four-byte access at byte `k` (R86). -/
inductive CorePhase where
  | ready
  | waitEng (b : BusId)
  | gotResult (r : Result) (idx : Nat)
  | acqTas (n : LockId) (saved : Bool)
  | acqFence (n : LockId) (saved : Bool)
  | acqPush (n : LockId) (saved : Bool)
  | relFence (n : LockId) (saved : Bool)
  | relClr (n : LockId) (saved : Bool)
  | relIE (saved : Bool)
  | word (k : Nat) (addr : Nat) (acc : Nat)
  deriving DecidableEq, Repr

/-- A script, its line index (R44, R86) and the position inside the line. -/
structure Frame where
  lines : List ScriptLine
  pc : Nat
  phase : CorePhase
  deriving DecidableEq, Repr

/-- A core (R37 to R39, R86, R191), with its part of the happens-before order (R61 to R63; log 12): `nWrites` its writes so
far, `acqView` what its acquire fences have ordered before its next accesses, `pendView` what its successful test-and-sets have
seen, `relView` what its release fences have ordered before its next clears (its own count of fences is how many it has
made). -/
structure Core where
  ie : Bool
  held : List Guard
  frame : Frame
  saved : List Frame
  halted : Bool
  vars : List (Nat × Nat)
  lastResult : Result
  lastIndex : Nat
  lkaVal : Word
  nWrites : Nat
  acqView : View
  pendView : View
  relView : View
  deriving DecidableEq, Repr

/-- Ordinary memory: byte address and byte, in the canonical form of Machine/Memory.lean. -/
abbrev Memory := List Host.Cell

/-- A write of ordinary memory: where, what, what it replaced, by which core, as which of that core's writes, and what was
ordered before it (R61; log 12). -/
structure WriteEv where
  addr : Nat
  val : Byte
  old : Byte
  core : CoreId
  seq : Nat
  view : View
  deriving DecidableEq, Repr

/-- A write announced before it is performed (R61; log 12): where, what and by which core; `num` tells it from the others that
stand; `raced` is the first read of the other core that has counted it as a candidate, by the release fences that core had made:
the write may not be ordered after that read. -/
structure Ahead where
  num : Nat
  addr : Nat
  val : Byte
  core : CoreId
  raced : Option (CoreId × Nat)
  deriving DecidableEq, Repr

/-- The agent whose step is being taken (R13, R57); `bank c` is `LOCKBANK` answering core `c`. -/
inductive Agent where
  | core (c : CoreId)
  | eng (b : BusId)
  | ctl (b : BusId)
  | bank (c : CoreId)
  deriving DecidableEq, Repr

/-- The inputs of a run that are no part of the machine (R40): the scheduler's picks, the draws of R90, R101, R193 and R61,
and the handlers of R191, each a list consumed from its head. From an empty list the answer is the free value of Config at the
counter `n` (log 2). -/
structure Oracle where
  sched : List Pick
  acks : List Bool
  bytes : List Byte
  aborts : List AbortDraw
  extras : List Word
  timeouts : List Bool
  choices : List Nat
  handlers : List (List ScriptLine)
  n : Nat
  deriving DecidableEq, Repr

/-- The state of the whole machine. -/
structure State where
  params : Params
  bus : PerBus Bus
  locks : Vector LockReg NUM_SPINLOCKS
  lkaQ : List (CoreId × LkaWord)
  core : PerCore Core
  mem : Memory
  writes : List WriteEv
  ahead : List Ahead
  oracle : Oracle
  cur : Agent
  deriving DecidableEq, Repr

/-! ## Why a run stops -/

/-- The registers, fields and flags a fatal can name (R184 `UnwrittenRead`). -/
inductive RegName where
  | CON
  | TAR
  | DATA_CMD
  | FS_HCNT
  | FS_LCNT
  | RAW_STATUS
  | RX_TL
  | TX_TL
  | CLR_STOP_DET
  | ENABLE
  | TXFLR
  | RXFLR
  | SDA_HOLD
  | ABRT_SRC
  | DMA_CR
  | FS_SPKLEN
  | RON
  deriving DecidableEq, Repr

/-- The fatals of R184, the complete list, each with the agent whose rule raised it (R183) and the info R184 records. A fatal
halts the whole run, as the spec says: each is the spec's own outcome. Safe: nothing goes on. -/
inductive Fault where
  /-- SETBAUD, WRITE, READ or TRANSFER while `CONFIGURED[i] = false` (R16). Raised by the engine. Safe. -/
  | NotConfigured (agent : Agent) (i : BusId) (op : EngOp)
  /-- A read of a value that was never written (R42). Raised by the engine or the controller. Safe. -/
  | UnwrittenRead (agent : Agent) (i : BusId) (reg : RegName)
  /-- An ERQ word of no row (R77). Raised by the core that issues it. Safe. -/
  | IllegalRequest (agent : Agent) (q : Word)
  /-- A push into a full `TXQ` (R52). Raised by the engine. Safe. -/
  | TxOverflow (agent : Agent) (i : BusId) (w : CmdWord)
  /-- A pop of an empty `RXQ` (R52). Raised by the engine. Safe. -/
  | RxUnderflow (agent : Agent) (i : BusId)
  /-- A lock id outside the bank (R115). Raised by the core. Safe. -/
  | SpinlockIdOutOfRange (agent : Agent) (c : CoreId) (id : Nat)
  /-- SPIN_ACQ of an id the core holds (R117). Raised by the core. Safe. -/
  | SelfDeadlock (agent : Agent) (c : CoreId) (id : Nat)
  /-- SPIN_REL of an id that is not the top guard (R118, R119). Raised by the core. Safe. -/
  | GuardMismatch (agent : Agent) (c : CoreId) (id : Nat) (top : Option Guard)
  /-- A request to an engine that is not `IDLE` (R66, R170). Raised by the core of the second request. Safe. -/
  | ConcurrentUse (agent : Agent) (i : BusId) (first second : CoreId)
  /-- A register access at a byte address that is not a multiple of 4 (R51). Raised by Machine/RegisterMap.lean alone; no step
  makes such an access (log 29). Safe. -/
  | Misaligned (agent : Agent) (addr : Nat)
  /-- `SPKLEN_OVERFLOW = refuse` and a spike length that does not fit (R130). Raised by the engine. Safe. -/
  | SpklenOverflow (agent : Agent) (i : BusId) (f : Word) (spk : Nat)
  deriving DecidableEq, Repr

/-- Why an instruction has no meaning. No meaning of this model refuses. -/
inductive Refusal where
  /-- The instruction has no meaning yet. Raised by an arm of `exec`. Safe: the run stops. -/
  | notModelled (mnemonic : String)
  deriving DecidableEq, Repr

/-- The outcome of a step. -/
abbrev Out := Host.Outcome State Fault Refusal

/-! ## Launch -/

/-- The engine at launch: `IDLE`, not configured, `RON` unwritten (R41, R207); the rest of the context DESIGN CHOICE, log 5
and log 6. -/
def Engine.reset : Engine where
  state := .IDLE
  sub := 0
  op := .CONFIGURE
  addr := 0
  len := 0
  k := 0
  ns := false
  budget := false
  abort := false
  lastabrt := 0
  kabrt := 0
  result := .OK
  resultIndex := 0
  ron := none
  configured := false
  requester := .core0
  operands := .zero
  phase := .write
  byte := 0

/-- `CON` unwritten (R41). -/
def Con.unwritten : Con := ⟨none, none, none, none, none⟩

/-- The controller at launch (R41, R207): registers unwritten, FIFOs empty, flags 0, hidden state idle, trace empty.
`RESET_CTL` is released (DESIGN CHOICE, log 31) and `DIR`, which R34 leaves unspecified, is W (DESIGN CHOICE, log 34). -/
def Ctl.reset : Ctl where
  con := .unwritten
  tar := none
  en := none
  fsHcnt := none
  fsLcnt := none
  fsSpklen := none
  txHold := none
  txTl := none
  rxTl := none
  dmaCr := ⟨none, none⟩
  txq := []
  rxq := []
  abrtSrc := 0
  stopDet := false
  resetCtl := false
  busOpen := false
  dir := .W
  inflight := none
  pendingStop := false
  trace := []

def View.zero : View := ⟨⟨0, 0⟩, ⟨0, 0⟩⟩

/-- A core at launch: no guard (R41), its script at the first line (R86). -/
def Core.launch (ie : Bool) (script : List ScriptLine) : Core where
  ie := ie
  held := []
  frame := ⟨script, 0, .ready⟩
  saved := []
  halted := false
  vars := []
  lastResult := .OK
  lastIndex := 0
  lkaVal := 0
  nWrites := 0
  acqView := .zero
  pendView := .zero
  relView := .zero

/-- No input given: every draw and every pick is free. -/
def Oracle.free : Oracle := ⟨[], [], [], [], [], [], [], [], 0⟩

/-- The parameters of a launch (R7 `INITIAL_LOCKS`, R37 `IE[c]`, R40, R45). -/
structure Launch where
  params : Params
  INITIAL_LOCKS : Vector Bool NUM_SPINLOCKS
  ie : PerCore Bool
  mem : Memory
  scripts : PerCore (List ScriptLine)
  deriving DecidableEq, Repr

/-- The launch state (R206, R207) under the given parameters. -/
def State.launch (l : Launch) : State where
  params := l.params
  bus := ⟨⟨.reset, .reset⟩, ⟨.reset, .reset⟩⟩
  locks := ⟨⟨l.INITIAL_LOCKS.toList.map fun x => ⟨x, .zero⟩⟩, by simp⟩
  lkaQ := []
  core := ⟨.launch l.ie.core0 l.scripts.core0, .launch l.ie.core1 l.scripts.core1⟩
  mem := l.mem
  writes := []
  ahead := []
  oracle := .free
  cur := .core .core0

/-- R7's defaults, all locks free, `IE[c] = 1` (PRESUMED, log 7), memory with nothing listed, no script (log 20). -/
def Launch.default : Launch where
  params := .default
  INITIAL_LOCKS := Vector.replicate NUM_SPINLOCKS false
  ie := ⟨true, true⟩
  mem := []
  scripts := ⟨[], []⟩

/-- The machine right after power-on (R41 "power-on / launch", R207). -/
def State.reset : State := .launch .default

/-! ## Where each part stands -/

def State.eng (s : State) (b : BusId) : Engine := (s.bus.get b).eng
def State.ctl (s : State) (b : BusId) : Ctl := (s.bus.get b).ctl
def State.coreOf (s : State) (c : CoreId) : Core := s.core.get c
def State.lock (s : State) (n : LockId) : LockReg := s.locks[n]

def State.setEng (s : State) (b : BusId) (e : Engine) : State :=
  { s with bus := s.bus.set b { s.bus.get b with eng := e } }
def State.setCtl (s : State) (b : BusId) (x : Ctl) : State :=
  { s with bus := s.bus.set b { s.bus.get b with ctl := x } }
def State.setCore (s : State) (c : CoreId) (k : Core) : State :=
  { s with core := s.core.set c k }
def State.setLock (s : State) (n : LockId) (l : LockReg) : State :=
  { s with locks := s.locks.set n l }
def State.setLkaQ (s : State) (q : List (CoreId × LkaWord)) : State := { s with lkaQ := q }
/-- Memory with its log of writes (log 12). -/
def State.setMem (s : State) (m : Memory) (w : List WriteEv) : State := { s with mem := m, writes := w }
/-- The writes announced (log 12). -/
def State.setAhead (s : State) (l : List Ahead) : State := { s with ahead := l }
def State.setOracle (s : State) (o : Oracle) : State := { s with oracle := o }
def State.setCur (s : State) (a : Agent) : State := { s with cur := a }

end Sys2Proof.Machine
end

