-- ==== Sys2Proof/Machine/Memory.lean ====
section
/-! DEFINITION. Lists of (key, value) pairs in one canonical form: keys strictly rising, no value equal to what an unlisted
key reads as. Ordinary memory (unlisted byte 0: DESIGN CHOICE, log 10) and the host variables (unlisted variable 0). -/

namespace Sys2Proof.Machine

/-- The value at key `a`, `d` where nothing is listed. -/
def sparseGet {V : Type} (d : V) : List (Nat × V) → Nat → V
  | [], _ => d
  | (k, v) :: r, a => if k = a then v else sparseGet d r a

/-- Put `v` at key `a`, keeping the canonical form: writing `d` removes the entry. -/
def sparseSet {V : Type} [DecidableEq V] (d : V) : List (Nat × V) → Nat → V → List (Nat × V)
  | [], a, v => if v = d then [] else [(a, v)]
  | (k, w) :: r, a, v =>
    if a < k then (if v = d then (k, w) :: r else (a, v) :: (k, w) :: r)
    else if a = k then (if v = d then r else (a, v) :: r)
    else (k, w) :: sparseSet d r a v

/-- The canonical form, from key `lo` on. -/
def sparseWf {V : Type} [DecidableEq V] (d : V) : Nat → List (Nat × V) → Bool
  | _, [] => true
  | lo, (k, v) :: r => decide (lo ≤ k) && decide (v ≠ d) && sparseWf d (k + 1) r

/-- The byte the latest write left at `a`, or the launch contents (R58). -/
def Memory.read (m : Memory) (a : Nat) : Byte := sparseGet 0 m a
def Memory.write (m : Memory) (a : Nat) (v : Byte) : Memory := sparseSet 0 m a v
/-- The canonical form of memory. -/
def Memory.wf (m : Memory) : Bool := sparseWf 0 0 m

/-- Host variables (R86): naturals, 0 at the start. -/
def varGet (m : List (Nat × Nat)) (r : Nat) : Nat := sparseGet 0 m r
def varSet (m : List (Nat × Nat)) (r v : Nat) : List (Nat × Nat) := sparseSet 0 m r v
def varsWf (m : List (Nat × Nat)) : Bool := sparseWf 0 0 m

end Sys2Proof.Machine
end

