-- ==== Sys2Proof/Machine/Operands.lean ====
section
/-! DEFINITION. Operand assembly: where a request's operands come from (R69, R73), the address check's arithmetic (R141), the
command word the engine writes (R74), and the operand forms of host-script lines (R86). -/

namespace Sys2Proof.Machine

/-- The core whose access a step makes: the issuer of a request (R69) or of a bank access (R110). Where the agent is an
engine or a controller no rule asks. -/
def Agent.issuer : Agent → CoreId
  | .core c => c
  | .bank c => c
  | .eng _ => .core0
  | .ctl _ => .core0

/-- The instance whose controller performs a command word (R89). Where the agent is a core or the bank no rule asks. -/
def Agent.bus : Agent → BusId
  | .ctl b => b
  | .eng b => b
  | .core _ => .i2c0
  | .bank _ => .i2c0

/-- The line at a core's script index (R44, R86). -/
def Core.line (k : Core) : Option ScriptLine := k.frame.lines[k.frame.pc]?

/-- The operand record of the request at a core's script index (R69). -/
def Core.record (k : Core) : Operands :=
  match k.line with
  | some (.req _ o) => o
  | _ => .zero

/-- R141: is `a` an address no transfer may use: `a ≥ 0x80`, or a reserved block? -/
def badAddress (a : BitVec ADDR_WIDTH) : Bool :=
  decide (0x80 ≤ a.toNat) || (a &&& 0x78 == 0x00) || (a &&& 0x78 == 0x78)

/-- R74, R144: the command word for byte `k` of a call of length `n`. -/
def cmdwOf (k n : Nat) (ron ns cmd : Bool) (dat : Byte) : CmdWord :=
  cmdw (decide (k = 0) && ron) (decide (k + 1 = n) && !ns) cmd dat

/-- R142: a budget is active iff `TMO ≠ 0`. -/
def budgetOf (tmo : Nat) : Bool := decide (tmo ≠ 0)

/-- `<reg|imm>` (R86). -/
def Core.val (k : Core) : Val → Nat
  | .imm n => n
  | .reg r => varGet k.vars r

/-- `<addr>` (R86): a constant or `<reg>+<imm>`. -/
def Core.addr (k : Core) : Addr → Nat
  | .const a => a
  | .off r imm => varGet k.vars r + imm

end Sys2Proof.Machine
end

