-- ==== Sys2Proof/Machine/Flags.lean ====
section
/-! DEFINITION. The derived flags and counts (R31, R32), the enabling conditions of the controller (R89), framing (R93), the
last-byte and stop-wait tests of the engine, and the classification of an abort (R165). -/

namespace Sys2Proof.Machine

open Sys2Proof.Config

/-- R31: `TX_EMPTY[i]`, derived; `none` while `CON.TX_EMPTY_CTRL` is unwritten. -/
def Ctl.txEmpty (x : Ctl) : Option Bool :=
  match x.con.txEmptyCtrl with
  | some true => some (x.txq.isEmpty && x.inflight.isNone)
  | some false => some x.txq.isEmpty
  | none => none

/-- R32: `WRITE_SPACE[i]`. -/
def writeSpace (p : Params) (x : Ctl) : Nat := p.TXQ_DEPTH - x.txq.length

/-- R32: `RX_AVAIL[i]`. -/
def Ctl.rxAvail (x : Ctl) : Nat := x.rxq.length

/-- R89, R107: LOAD and PERFORM may be taken: enabled, master mode, restarts, 7-bit addresses. An unwritten field does not
hold the value the condition asks for (log 4). -/
def Ctl.canRun (x : Ctl) : Bool :=
  x.en == some true && x.con.masterMode == some true && x.con.restartEn == some true && x.con.addr10Master == some false

/-- The framing of a command (R93). -/
inductive Framing where
  | START
  | RESTART
  | NONE
  deriving DecidableEq, Repr

/-- R93. -/
def Ctl.framing (x : Ctl) (restart : Bool) (rw : Dir) : Framing :=
  if x.busOpen = false then .START
  else if restart then .RESTART
  else if x.dir ≠ rw then .RESTART
  else .NONE

/-- R144: is byte `K` the last of the call? -/
def Engine.last (e : Engine) : Bool := decide (e.k + 1 = e.len)

/-- R146: after `CHECK_ABORT`, does the call wait for the stop? -/
def Engine.needsStop (e : Engine) : Bool := e.abort || (e.last && !e.ns)

/-- R165: `classify(v, k)`: the result and its index. -/
def classify (v : Word) (k : Nat) : Result × Nat :=
  if v = 0 ∨ v.getLsbD ABRT_ADDR_NACK_BIT = true then (.BusError, 0) else (.DataError, k)

/-- The result of a call at `FINISH` (R146, R158). -/
def Engine.outcome (e : Engine) : Result × Nat :=
  if e.abort then classify e.lastabrt e.kabrt else (.OK, 0)

end Sys2Proof.Machine
end

