-- ==== Sys2Proof/Machine/Ops.lean ====
section
/-! DEFINITION. The named operations the meanings are made of: the oracle's draws, the register accesses of R52, the FIFOs, the
lock-bank accesses, the fences, ordinary memory, the block reset, and the two ways a request ends: `return E` (R182) and
`fatal F` (R183). The block has no trap entry and no trap return (R185, R194, R195): a fatal is the only exception it takes. -/

namespace Sys2Proof.Machine

open Sys2Proof.Config

/-! ## How a request ends -/

/-- `fatal F` (R10, R183): the run ends with `F`; no state is changed. -/
def fatal (f : Fault) : Out := .fault f

/-- The frame that waits for instance `b` has its result (R18). -/
def Frame.deliver (b : BusId) (r : Result) (idx : Nat) (f : Frame) : Frame :=
  if f.phase = .waitEng b then { f with phase := .gotResult r idx } else f

/-- The result goes to the calling core's waiting request, which a handler may have preempted (R18, R191). -/
def Core.deliver (b : BusId) (r : Result) (idx : Nat) (k : Core) : Core :=
  { k with frame := k.frame.deliver b r idx, saved := k.saved.map (Frame.deliver b r idx) }

/-- `return E` (R10, R182): the result registers take the result, the engine returns to `IDLE`, and the caller has the
result. -/
def returnResult (b : BusId) (r : Result) (idx : Nat) (s : State) : State :=
  let e := s.eng b
  (s.setEng b { e with state := .IDLE, sub := 0, result := r, resultIndex := idx }).setCore e.requester
    ((s.coreOf e.requester).deliver b r idx)

/-- The agent has no enabled step: its pick passes (log 3). -/
def noStep (s : State) : Out := .next s

/-! ## Draws of the oracle -/

/-- The scheduler's pick (R11). -/
def drawPick (s : State) : Pick × State :=
  match s.oracle.sched with
  | x :: r => (x, s.setOracle { s.oracle with sched := r })
  | [] => (freePick s.oracle.n, s.setOracle { s.oracle with n := s.oracle.n + 1 })

/-- `draw_ack()` (R90): true is ACK. -/
def drawAck (s : State) : Bool × State :=
  match s.oracle.acks with
  | x :: r => (x, s.setOracle { s.oracle with acks := r })
  | [] => (freeAck s.oracle.n, s.setOracle { s.oracle with n := s.oracle.n + 1 })

/-- `draw_byte()` (R90). -/
def drawByte (s : State) : Byte × State :=
  match s.oracle.bytes with
  | x :: r => (x, s.setOracle { s.oracle with bytes := r })
  | [] => (freeByte s.oracle.n, s.setOracle { s.oracle with n := s.oracle.n + 1 })

/-- `draw_abort()` (R90). -/
def drawAbort (s : State) : AbortDraw × State :=
  match s.oracle.aborts with
  | x :: r => (x, s.setOracle { s.oracle with aborts := r })
  | [] => (freeAbort s.oracle.n, s.setOracle { s.oracle with n := s.oracle.n + 1 })

/-- `extra` of R101. -/
def drawExtra (s : State) : Word × State :=
  match s.oracle.extras with
  | x :: r => (x, s.setOracle { s.oracle with extras := r })
  | [] => (freeExtra s.oracle.n, s.setOracle { s.oracle with n := s.oracle.n + 1 })

/-- `draw_timeout()` (R193). -/
def drawTimeout (s : State) : Bool × State :=
  match s.oracle.timeouts with
  | x :: r => (x, s.setOracle { s.oracle with timeouts := r })
  | [] => (freeTimeout s.oracle.n, s.setOracle { s.oracle with n := s.oracle.n + 1 })

/-- The draw over the candidates of a racy read (R61). -/
def drawChoice (s : State) : Nat × State :=
  match s.oracle.choices with
  | x :: r => (x, s.setOracle { s.oracle with choices := r })
  | [] => (freeChoice s.oracle.n, s.setOracle { s.oracle with n := s.oracle.n + 1 })

/-- The handler oracle (R191). -/
def drawHandler (s : State) : List ScriptLine × State :=
  match s.oracle.handlers with
  | x :: r => (x, s.setOracle { s.oracle with handlers := r })
  | [] => (freeHandler s.oracle.n, s.setOracle { s.oracle with n := s.oracle.n + 1 })

/-! ## Register accesses (R46, R52) -/

/-- `RegWrite(i, ENABLE, v)` with `v[0] = 0`: R104. -/
def disable (b : BusId) (s : State) : State :=
  let x := s.ctl b
  s.setCtl b { x with
    en := some false
    txq := []
    rxq := []
    inflight := none
    pendingStop := x.pendingStop || (s.params.DISABLE_ENDS_TRANSACTION && x.busOpen) }

/-- `RegWrite(i, ENABLE, v)` with `v[0] = 1`: R105. -/
def enable (b : BusId) (s : State) : State := s.setCtl b { s.ctl b with en := some true }

/-- `RegWrite(i, CON, …)` of CONFIGURE: the four mode fields (R46, R50); no effect while enabled (R215). -/
def writeConMode (b : BusId) (s : State) : State :=
  let x := s.ctl b
  if x.en = some true then s
  else s.setCtl b { x with con := { x.con with
    masterMode := some true, addr10Master := some false, restartEn := some true, txEmptyCtrl := some true } }

/-- SETBAUD's update of `CON.SPEED` (R50); no effect while enabled (R215). -/
def writeConSpeed (b : BusId) (v : BitVec 2) (s : State) : State :=
  let x := s.ctl b
  if x.en = some true then s else s.setCtl b { x with con := { x.con with speed := some v } }

/-- `RegWrite(i, TAR, a)` (R20); no effect while enabled (R215). -/
def writeTar (b : BusId) (a : BitVec ADDR_WIDTH) (s : State) : State :=
  let x := s.ctl b
  if x.en = some true then s else s.setCtl b { x with tar := some (a.setWidth 7) }

def writeFsHcnt (b : BusId) (v : Nat) (s : State) : State :=
  s.setCtl b { s.ctl b with fsHcnt := some (BitVec.ofNat 16 v) }
def writeFsLcnt (b : BusId) (v : Nat) (s : State) : State :=
  s.setCtl b { s.ctl b with fsLcnt := some (BitVec.ofNat 16 v) }
/-- R23, R130: the register keeps `SPKLEN_WIDTH` bits. -/
def writeFsSpklen (b : BusId) (v : Nat) (s : State) : State :=
  s.setCtl b { s.ctl b with fsSpklen := some (BitVec.ofNat 8 (v % 2 ^ SPKLEN_WIDTH)) }
/-- R24: the field alone, the other bits kept. -/
def writeTxHold (b : BusId) (v : Nat) (s : State) : State :=
  s.setCtl b { s.ctl b with txHold := some (BitVec.ofNat HOLD_WIDTH v) }
def writeTxTl (b : BusId) (v : Word) (s : State) : State := s.setCtl b { s.ctl b with txTl := some v }
def writeRxTl (b : BusId) (v : Word) (s : State) : State := s.setCtl b { s.ctl b with rxTl := some v }
def writeDmaCr (b : BusId) (rd td : Bool) (s : State) : State :=
  s.setCtl b { s.ctl b with dmaCr := ⟨some rd, some td⟩ }

/-- `RegWrite(i, DATA_CMD, w)` (R52): push, or `fatal TxOverflow`; then go on. -/
def pushDataCmd (b : BusId) (w : CmdWord) (s : State) (go : State → Out) : Out :=
  let x := s.ctl b
  if x.txq.length < s.params.TXQ_DEPTH then go (s.setCtl b { x with txq := x.txq ++ [w] })
  else fatal (.TxOverflow s.cur b w)

/-- `RegRead(i, DATA_CMD)` (R52): pop, or `fatal RxUnderflow`; then go on with the byte. -/
def popDataCmd (b : BusId) (s : State) (go : Byte → State → Out) : Out :=
  let x := s.ctl b
  match x.rxq with
  | d :: r => go d (s.setCtl b { x with rxq := r })
  | [] => fatal (.RxUnderflow s.cur b)

/-- `RegRead(i, ABRT_SRC)`: read-to-clear (R29, R52). -/
def readAbrtSrc (b : BusId) (s : State) : Word × State :=
  ((s.ctl b).abrtSrc, s.setCtl b { s.ctl b with abrtSrc := 0 })

/-- `RegRead(i, CLR_STOP_DET)` (R30, R52); the value it returns is unspecified and ignored (log 23). -/
def readClrStopDet (b : BusId) (s : State) : State := s.setCtl b { s.ctl b with stopDet := false }

/-- One block reset (R33, R106, R208): everything of the controller to its reset value but the trace; `RESET_CTL` is released
again. -/
def blockReset (b : BusId) (s : State) : State :=
  s.setCtl b { Ctl.reset with trace := (s.ctl b).trace }

/-! ## The bus side's parts (R99, R101) -/

/-- Append events to the trace (R35). -/
def emit (b : BusId) (ev : List BusEvent) (s : State) : State :=
  s.setCtl b { s.ctl b with trace := (s.ctl b).trace ++ ev }

def ackEvent (a : Bool) : BusEvent := if a then .ACK else .NACK

/-- R101: an abort with bits `m` and the drawn extra bits. -/
def abortWith (b : BusId) (m : Word) (s : State) : State :=
  let (extra, s1) := drawExtra s
  let x := s1.ctl b
  s1.setCtl b { x with
    abrtSrc := x.abrtSrc ||| m ||| extra
    txq := []
    inflight := none
    pendingStop := true }

/-- R99: the end of a command that did not abort. -/
def endCommand (b : BusId) (stop : Bool) (rw : Dir) (s : State) : State :=
  let x := s.ctl b
  if stop then s.setCtl b { x with inflight := none, pendingStop := true }
  else s.setCtl b { x with inflight := none, busOpen := true, dir := rw }

/-! ## Lock bank and fences -/

/-- Joined views: ordered after both. -/
def Clock.join (a b : Clock) : Clock := ⟨max a.writes b.writes, max a.fences b.fences⟩
def View.join (u v : View) : View := ⟨u.core0.join v.core0, u.core1.join v.core1⟩

/-- `LockTAS(c, n)` (R110): the value read, non-zero if this read claimed the lock. A successful one sees what the lock's clears
published (R64). -/
def lockTAS (c : CoreId) (n : LockId) (s : State) : Word × State :=
  let l := s.lock n
  if l.claimed then (0, s)
  else
    let k := s.coreOf c
    ((1 : Word) <<< n.val, (s.setLock n { l with claimed := true }).setCore c { k with pendView := k.pendView.join l.view })

/-- `LockClr(c, n)` (R111): free, whoever claimed it. The clear publishes what the core's release fences and acquire fences
have ordered before it (R62 to R64; log 13). -/
def lockClr (c : CoreId) (n : LockId) (s : State) : State :=
  let k := s.coreOf c
  let l := s.lock n
  s.setLock n { l with claimed := false, view := (l.view.join k.relView).join k.acqView }

/-- `FenceAcq(c)` (R62): later accesses are ordered after the test-and-sets before. -/
def fenceAcq (c : CoreId) (s : State) : State :=
  let k := s.coreOf c
  s.setCore c { k with acqView := k.acqView.join k.pendView }

/-- `FenceRel(c)` (R63): later clears are ordered after all accesses so far, and after what those are ordered after. -/
def fenceRel (c : CoreId) (s : State) : State :=
  let k := s.coreOf c
  let own : Clock := ⟨k.nWrites, (k.relView.get c).fences + 1⟩
  s.setCore c { k with relView := k.relView.join (k.acqView.join (View.zero.set c own)) }

/-! ## Ordinary memory (R58, R60, R61; log 12 to log 14) -/

/-- Is the write `e` ordered before the next access of core `c`, which has acquired `v`? Its own writes are (same byte,
program order). -/
def WriteEv.before (e : WriteEv) (c : CoreId) (v : View) : Bool :=
  decide (e.core = c) || decide (e.seq ≤ (v.get e.core).writes)

/-- Is the write `e` ordered before the write `f` of the same byte? -/
def WriteEv.hb (e f : WriteEv) : Bool :=
  if e.core = f.core then decide (e.seq < f.seq) else decide (e.seq ≤ (f.view.get e.core).writes)

/-- The writes of byte `a`, newest first. -/
def State.writesOf (s : State) (a : Nat) : List WriteEv := s.writes.filter fun e => decide (e.addr = a)

/-- Is the announced write one a read of byte `a` by core `c` races with? A core's own later writes are ordered after its read
(same byte, program order). -/
def Ahead.races (w : Ahead) (c : CoreId) (a : Nat) : Bool := decide (w.addr = a) && decide (w.core ≠ c)

/-- The announced writes a read of byte `a` by core `c` races with. -/
def State.aheadOf (s : State) (c : CoreId) (a : Nat) : List Ahead := s.ahead.filter fun w => w.races c a

/-- What byte `a` held at launch: what its first write replaced, or what it still holds. -/
def State.initial (s : State) (a : Nat) : Byte :=
  match (s.writesOf a).getLast? with
  | some e => e.old
  | none => s.mem.read a

/-- The values a read of byte `a` by core `c` may return (R61): with every write ordered before it, the latest one's (and any
other that no write is ordered after: log 14); in a race, with a write performed or with one announced, any write's, or the initial
value. -/
def readChoices (c : CoreId) (a : Nat) (s : State) : List Byte :=
  let ws := s.writesOf a
  let later := s.aheadOf c a
  if later = [] ∧ (ws.all fun e => e.before c (s.coreOf c).acqView) = true then
    s.mem.read a :: ((ws.drop 1).filter fun e => !(ws.any fun f => e.hb f)).map (·.val)
  else
    ws.map (·.val) ++ s.initial a :: later.map (·.val)

/-- The announced writes a read of byte `a` by core `c` has counted as candidates are, from now on, not ordered after it. -/
def markRaced (c : CoreId) (a : Nat) (s : State) : State :=
  let fences := ((s.coreOf c).relView.get c).fences
  s.setAhead (s.ahead.map fun w =>
    if w.races c a = true ∧ w.raced = none then { w with raced := some (c, fences) } else w)

/-- Does a write of `v` to byte `a` by core `c`, which has acquired `view`, perform the announced write `w`? It does unless it is
ordered after a read that counted `w` as a candidate. -/
def Ahead.performedBy (w : Ahead) (c : CoreId) (a : Nat) (v : Byte) (view : View) : Bool :=
  decide (w.core = c) && decide (w.addr = a) && decide (w.val = v) &&
    match w.raced with
    | none => true
    | some (r, fences) => decide ((view.get r).fences ≤ fences)

/-- Core `c` will write `v` to byte `a` (R61): a later step of the run performs it (Safety.lean `AnnouncementsKept`). No step
outside the launch memory (R56). -/
def announce (c : CoreId) (a : Nat) (v : Byte) (s : State) : Out :=
  if s.params.inMemory a then
    let num := match s.ahead with
      | w :: _ => w.num + 1
      | [] => 0
    .next (s.setAhead (⟨num, a, v, c, none⟩ :: s.ahead))
  else noStep s

/-- `MemRead(a, 1)` by core `c` (R10, R58); `none` outside the launch memory, where there is no step (R56; log 11). With one
candidate nothing is drawn. -/
def memRead (c : CoreId) (a : Nat) (s : State) : Option (Byte × State) :=
  if s.params.inMemory a then
    match readChoices c a s with
    | v :: w :: r =>
      let (d, s1) := drawChoice s
      some ((v :: w :: r).getD (d % (r.length + 2)) v, markRaced c a s1)
    | [v] => some (v, s)
    | [] => some (s.mem.read a, s)
  else none

/-- `MemWrite(a, 1, v)` by core `c` (R10, R58), with the announced writes it performs; `none` outside the launch memory (R56;
log 11). -/
def memWrite (c : CoreId) (a : Nat) (v : Byte) (s : State) : Option State :=
  if s.params.inMemory a then
    let k := s.coreOf c
    let ev : WriteEv := ⟨a, v, s.mem.read a, c, k.nWrites + 1, k.acqView⟩
    some (((s.setMem (s.mem.write a v) (ev :: s.writes)).setAhead
      (s.ahead.filter fun w => !w.performedBy c a v k.acqView)).setCore c { k with nWrites := k.nWrites + 1 })
  else none

/-! ## Positions -/

/-- Move the engine to statement `sub` of FSM state `st` (R17). -/
def goto (b : BusId) (st : EngState) (sub : Nat) (s : State) : State :=
  s.setEng b { s.eng b with state := st, sub := sub }

/-- Move core `c` inside its line. -/
def setPhase (c : CoreId) (p : CorePhase) (s : State) : State :=
  let k := s.coreOf c
  s.setCore c { k with frame := { k.frame with phase := p } }

/-- The line is complete: the script index advances by 1 (R44, R86). -/
def nextLine (c : CoreId) (s : State) : State :=
  let k := s.coreOf c
  s.setCore c { k with frame := { k.frame with pc := k.frame.pc + 1, phase := .ready } }

/-- A taken branch (R86). -/
def jumpTo (c : CoreId) (t : Nat) (s : State) : State :=
  let k := s.coreOf c
  s.setCore c { k with frame := { k.frame with pc := t, phase := .ready } }

/-! ## Issuing a request (R58, R66, R69) -/

/-- The engine context as a request finds it: re-initialised but for what is carried between requests (R179) and the result of the
last request, which only `return` writes (R14). R179 names no values; they are those at launch: DESIGN CHOICE, log 36. -/
def Engine.reinit (e : Engine) : Engine :=
  { Engine.reset with ron := e.ron, configured := e.configured, result := e.result, resultIndex := e.resultIndex }

/-- The issuing core's side of an engine request: in `ready`, issue it to an `IDLE` engine, or `fatal ConcurrentUse` (R66);
once the engine has returned, take the result and go on to the next line (R58); while waiting there is no step. `load` writes
the request's own part of the re-initialised engine context (R179). -/
def issueRequest (c : CoreId) (b : BusId) (load : Operands → Engine → Engine) (s : State) : Out :=
  let k := s.coreOf c
  match k.frame.phase with
  | .ready =>
    if (s.eng b).state = .IDLE then
      .next (setPhase c (.waitEng b)
        (s.setEng b { load k.record (s.eng b).reinit with requester := c, operands := k.record, sub := 0 }))
    else fatal (.ConcurrentUse (.core c) b (s.eng b).requester c)
  | .gotResult r idx => .next (nextLine c (s.setCore c { k with lastResult := r, lastIndex := idx }))
  | _ => noStep s

end Sys2Proof.Machine
end

