-- ==== Sys2Proof/Machine/BusCommands.lean ====
section
/-! DEFINITION. The controller agent (40_bus_commands.md): LOAD, STOP and OTHER_ABORT, and PERFORM of the two commands
CMD_WRITE R95 and CMD_READ R97. -/

namespace Sys2Proof.Machine

open Sys2Proof.Config

/-- LOAD (R92). -/
def ctlLoad (b : BusId) (s : State) : Out :=
  let x := s.ctl b
  if x.canRun = true ∧ x.inflight = none ∧ x.pendingStop = false then
    match x.txq with
    | w :: r => .next (s.setCtl b { x with txq := r, inflight := some w })
    | [] => noStep s
  else noStep s

/-- STOP (R100), whatever `EN` is. -/
def ctlStop (b : BusId) (s : State) : Out :=
  let x := s.ctl b
  if x.pendingStop then
    .next (s.setCtl b { x with trace := x.trace ++ [.STOP], busOpen := false, pendingStop := false, stopDet := true })
  else noStep s

/-- OTHER_ABORT (R102). -/
def ctlOtherAbort (b : BusId) (s : State) : Out :=
  let x := s.ctl b
  if x.canRun = true ∧ x.inflight ≠ none ∧ s.params.OTHER_ABORTS = true then
    .next (abortWith b (drawAbort s).1.value (drawAbort s).2)
  else noStep s

/-- The bus event of a framing (R93, R35). -/
def Framing.events : Framing → List BusEvent
  | .START => [.START]
  | .RESTART => [.RESTART]
  | .NONE => []

/-- The address phase (R94): framing, address and drawn acknowledge; NACK aborts with `ADDR_NACK`, ACK goes on. -/
def addressPhase (b : BusId) (fr : Framing) (a : BitVec 7) (rw : Dir) (go : State → State) (s : State) : State :=
  let (ack, s1) := drawAck (emit b (fr.events ++ [.ADDR a rw]) s)
  let s2 := emit b [ackEvent ack] s1
  if ack then go s2 else abortWith b ((1 : Word) <<< ABRT_ADDR_NACK_BIT) s2

/-- The framing of R93 and, with START or RESTART, the address phase of R94, before the data phase `go`. Reading an unwritten
`TAR` is fatal (R42), before anything is changed. -/
def withFraming (b : BusId) (restart : Bool) (rw : Dir) (go : State → State) (s : State) : Out :=
  let x := s.ctl b
  let fr := x.framing restart rw
  if fr = .NONE then .next (go s)
  else match x.tar with
    | none => fatal (.UnwrittenRead (.ctl b) b .TAR)
    | some a => .next (addressPhase b fr a rw go s)

/-- The data phase of CMD_WRITE (R95). -/
def writeData (b : BusId) (dat : Byte) (stop : Bool) (s : State) : State :=
  let (ack, s1) := drawAck (emit b [.DATA_W dat] s)
  let s2 := emit b [ackEvent ack] s1
  if ack then endCommand b stop .W s2 else abortWith b ((1 : Word) <<< ABRT_TXDATA_NACK_BIT) s2

/-- The data phase of CMD_READ (R97): the byte is a draw; the master NACKs the byte that carries STOP. -/
def readData (b : BusId) (stop : Bool) (s : State) : State :=
  let (d, s1) := drawByte s
  let s2 := emit b [.DATA_R d, ackEvent (!stop)] s1
  endCommand b stop .R (s2.setCtl b { s2.ctl b with rxq := (s2.ctl b).rxq ++ [d] })

/-- `CMD_WRITE` (R95): PERFORM of the in-flight command by the controller whose step it is. -/
def execCmdWrite (dat : Byte) (stop restart : Bool) (s : State) : Out :=
  let b := s.cur.bus
  let x := s.ctl b
  if x.canRun = true ∧ x.inflight ≠ none then withFraming b restart .W (writeData b dat stop) s
  else noStep s

/-- `CMD_READ` (R97): PERFORM, not while `RXQ` is full (R103). -/
def execCmdRead (_ : Byte) (stop restart : Bool) (s : State) : Out :=
  let b := s.cur.bus
  let x := s.ctl b
  if x.canRun = true ∧ x.inflight ≠ none ∧ x.rxq.length < s.params.RXQ_DEPTH then
    withFraming b restart .R (readData b stop) s
  else noStep s

end Sys2Proof.Machine
end

