-- ==== Sys2Proof/Machine/Baud.lean ====
section
/-! DEFINITION. The baud-rate programmer (42_baud_rate.md): the computation R125 to R131 and SETBAUD R132. -/

namespace Sys2Proof.Machine

open Sys2Proof.Config

/-- R126: round half up. -/
def baudPeriod (f : Nat) : Nat := (CLK_IN + f / 2) / f
/-- R127. -/
def baudLcnt (f : Nat) : Nat := baudPeriod f * 3 / 5
/-- R127. -/
def baudHcnt (f : Nat) : Nat := baudPeriod f - baudLcnt f
/-- R129. -/
def holdNs (f : Nat) : Nat := if f < HOLD_FREQ_THRESHOLD then HOLD_NS_SLOW else HOLD_NS_FAST
/-- R129. -/
def baudHold (f : Nat) : Nat := CLK_IN * holdNs f / 1000000000 + 1
/-- R130, before the register keeps its low bits. -/
def baudSpk (f : Nat) : Nat := max 1 (baudLcnt f / 16)

/-- R126, R128, R131: is `f` refused with `InvalidBaudrate`? -/
def badBaud (f : Nat) : Bool :=
  decide (f = 0) ||
  (decide (baudLcnt f < CNT_MIN) || decide (REG_MAX < baudLcnt f) ||
   decide (baudHcnt f < CNT_MIN) || decide (REG_MAX < baudHcnt f)) ||
  decide (baudLcnt f - 2 < baudHold f)

/-- R130: the spike length does not fit and the parameter refuses it. -/
def spkRefused (p : Params) (f : Nat) : Bool :=
  decide (p.SPKLEN_OVERFLOW = .refuse) && decide (2 ^ SPKLEN_WIDTH ≤ baudSpk f)

/-- SETBAUD's CHECK without its CONFIGURED check (R132, R171): `InvalidBaudrate`, `fatal SpklenOverflow`, or on to the
register writes at statement `sub` of state `st`. -/
def baudCheck (b : BusId) (st : EngState) (sub : Nat) (s : State) : Out :=
  let f := (s.eng b).operands.freq
  if badBaud f.toNat then .next (returnResult b .InvalidBaudrate 0 s)
  else if spkRefused s.params f.toNat then fatal (.SpklenOverflow (.eng b) b f (baudSpk f.toNat))
  else .next (goto b st sub s)

/-- The register writes of R132 in the source's order, one access each. A frequency the check refuses is never written. -/
def baudWrite (b : BusId) (j : Nat) (s : State) : State :=
  let f := (s.eng b).operands.freq.toNat
  if badBaud f then s
  else match j with
    | 0 => disable b s
    | 1 => writeFsHcnt b (baudHcnt f) s
    | 2 => writeFsLcnt b (baudLcnt f) s
    | 3 => writeFsSpklen b (baudSpk f) s
    | 4 => writeTxHold b (baudHold f) s
    | 5 => writeConSpeed b SPEED_FAST s
    | _ => enable b s

/-- One step of `ENG[i]` in SETBAUD (R132): `CHECK → PROGRAM → FINISH`. -/
def setbaudStep (b : BusId) (s : State) : Out :=
  let e := s.eng b
  match e.state with
  | .CHECK =>
    if e.configured then baudCheck b .PROGRAM 0 s
    else fatal (.NotConfigured (.eng b) b .SETBAUD)
  | .PROGRAM =>
    if e.sub < 6 then .next (goto b .PROGRAM (e.sub + 1) (baudWrite b e.sub s))
    else .next (goto b .FINISH 0 (baudWrite b 6 s))
  | .FINISH => .next (returnResult b .OK 0 s)
  | _ => noStep s

/-- What a SETBAUD request writes to the re-initialised engine context (R14, R132). -/
def loadSetbaud (_ : Operands) (e : Engine) : Engine :=
  { e with state := .CHECK, op := .SETBAUD }

/-- `SETBAUD` (R132): issued by a core, run by the engine. -/
def execSetbaud (b : BusId) (s : State) : Out :=
  match s.cur with
  | .core c => issueRequest c b loadSetbaud s
  | _ => setbaudStep b s

end Sys2Proof.Machine
end

