-- ==== Sys2Proof/Machine/Transfer.lean ====
section
/-! DEFINITION. The transfer engine (43_transfer_engine.md): the steps WRITE and READ share (R141 to R145, R165, R166), WRITE
R146 and READ R158, one primitive a step (R57). A TRANSFER (R174) runs the same calls as its phases. -/

namespace Sys2Proof.Machine

open Sys2Proof.Config

/-- Start a READ call as TRANSFER's phase (R158, R174 step 3): `NS = 0`, its own budget (R142). -/
def startReadCall (b : BusId) (s : State) : State :=
  let e := s.eng b
  s.setEng b { e with
    phase := .read, state := .CHECK, sub := 1, len := e.operands.rlen, k := 0, ns := false,
    budget := budgetOf e.operands.tmo }

/-- Start a WRITE call as TRANSFER's phase (R146, R174 step 2). -/
def startWriteCall (b : BusId) (s : State) : State :=
  let e := s.eng b
  s.setEng b { e with
    phase := .write, state := .CHECK, sub := 1, len := e.operands.wlen, k := 0, ns := false,
    budget := budgetOf e.operands.tmo }

/-- A WRITE or READ call ends with a result: the request returns it, but that a TRANSFER whose write phase is `OK` goes on to
its read phase if there is one (R174). -/
def callReturn (b : BusId) (r : Result × Nat) (s : State) : State :=
  let e := s.eng b
  if e.op = .TRANSFER ∧ e.phase = .write ∧ r.1 = .OK ∧ 0 < e.operands.rlen then startReadCall b s
  else returnResult b r.1 r.2 s

/-- The entry checks (R141), in their order, before any register access. -/
def entryChecks (b : BusId) (s : State) : Out :=
  let e := s.eng b
  if e.configured = false then fatal (.NotConfigured (.eng b) b e.op)
  else if badAddress e.addr then .next (callReturn b (.InvalidTargetAddress, 0) s)
  else if e.len = 0 then .next (callReturn b (.OK, 0) s)
  else .next (goto b .SETUP 0 s)

/-- A budget expired (R143): `RON <- NS` and the call returns `Timeout`. -/
def timeoutReturn (b : BusId) (s : State) : State :=
  callReturn b (.Timeout, 0) (s.setEng b { s.eng b with ron := some (s.eng b).ns })

/-- One budget draw of a poll (R143): time out, or poll again at statement `sub` 0 of the wait's state. A wait without a
budget never draws. -/
def budgetDraw (b : BusId) (s : State) : State :=
  if (s.eng b).budget then
    let (d, s1) := drawTimeout s
    if d then timeoutReturn b s1 else goto b (s.eng b).state 0 s1
  else goto b (s.eng b).state 0 s

/-- A failed poll (R143): with a budget the draw is the next statement, at `sub`; without one the poll is repeated. -/
def pollAgain (b : BusId) (budget : Bool) (sub : Nat) (s : State) : State :=
  if budget then goto b (s.eng b).state sub s else goto b (s.eng b).state 0 s

/-- SETUP (R145), one access a step, then the first statement of the loop: `first` is the loop's entry state. -/
def setupStep (b : BusId) (first : EngState) (s : State) : State :=
  match (s.eng b).sub with
  | 0 => goto b .SETUP 1 (disable b s)
  | 1 => goto b .SETUP 2 (writeTar b (s.eng b).addr s)
  | 2 => goto b .SETUP 3 (enable b s)
  | _ => goto b first 0 (s.setEng b { s.eng b with abort := false, lastabrt := 0, kabrt := 0, k := 0 })

/-- Byte `K` is done: the next one from the loop's entry state, or `FINISH` (R146, R158). -/
def nextByte (b : BusId) (first : EngState) (s : State) : State :=
  let e := s.eng b
  if e.k + 1 < e.len then goto b first 0 (s.setEng b { e with k := e.k + 1 }) else goto b .FINISH 0 s

/-- ISSUE (R144, R146, R158): push the command word of byte `K`, reading `RON`. -/
def issueWord (b : BusId) (cmd : Bool) (dat : Byte) (next : EngState) (s : State) : Out :=
  let e := s.eng b
  match e.ron with
  | none => fatal (.UnwrittenRead (.eng b) b .RON)
  | some ron => pushDataCmd b (cmdwOf e.k e.len ron e.ns cmd dat) s fun s1 => .next (goto b next 0 s1)

/-- An abort-source value has been read (R146, R157): keep a non-zero one with the byte's index. -/
def noteAbort (b : BusId) (v : Word) (s : State) : State :=
  if v = 0 then s
  else s.setEng b { s.eng b with abort := true, lastabrt := v, kabrt := (s.eng b).k }

/-- FINISH (R165, R166): `RON <- NS`, and the call returns its outcome. -/
def finishCall (b : BusId) (s : State) : State :=
  let e := s.eng b
  callReturn b e.outcome (s.setEng b { e with ron := some e.ns })

/-- WAIT_STOP's failed poll (R143 with `b = BUDGET`; R151 under the legacy polarity, where a call without a budget times
out). -/
def stopDraw (b : BusId) (s : State) : State :=
  if (s.eng b).budget = false ∧ s.params.WRITE_TIMEOUT_POLARITY = .legacy_inverted then timeoutReturn b s
  else budgetDraw b s

/-- Does a failed stop poll lead to statement 1 (a draw, or the legacy timeout)? -/
def stopHasDraw (b : BusId) (s : State) : Bool :=
  (s.eng b).budget || decide (s.params.WRITE_TIMEOUT_POLARITY = .legacy_inverted)

/-- One step of `ENG[i]` in a WRITE call (R146). -/
def writeCallStep (b : BusId) (s : State) : Out :=
  let e := s.eng b
  match e.state, e.sub with
  | .CHECK, _ => entryChecks b s
  | .SETUP, _ => .next (setupStep b .ISSUE s)
  | .ISSUE, 0 =>
    match memRead e.requester (e.operands.wbuf + e.k) s with
    | none => noStep s
    | some (d, s1) => .next (goto b .ISSUE 1 (s1.setEng b { s1.eng b with byte := d }))
  | .ISSUE, _ => issueWord b false e.byte .WAIT_TX_EMPTY s
  | .WAIT_TX_EMPTY, 0 =>
    match (s.ctl b).txEmpty with
    | none => fatal (.UnwrittenRead (.eng b) b .CON)
    | some true => .next (goto b .CHECK_ABORT 0 s)
    | some false => .next (pollAgain b e.budget 1 s)
  | .WAIT_TX_EMPTY, _ => .next (budgetDraw b s)
  | .CHECK_ABORT, _ =>
    let s1 := noteAbort b (readAbrtSrc b s).1 (readAbrtSrc b s).2
    .next (if (s1.eng b).needsStop then goto b .WAIT_STOP 0 s1 else nextByte b .ISSUE s1)
  | .WAIT_STOP, 0 =>
    .next (if (s.ctl b).stopDet then goto b .CLEAR_STOP 0 s else pollAgain b (stopHasDraw b s) 1 s)
  | .WAIT_STOP, _ => .next (stopDraw b s)
  | .CLEAR_STOP, _ =>
    .next (if e.abort then goto b .FINISH 0 (readClrStopDet b s) else nextByte b .ISSUE (readClrStopDet b s))
  | .FINISH, _ => .next (finishCall b s)
  | _, _ => noStep s

/-- One step of `ENG[i]` in a READ call (R158). -/
def readCallStep (b : BusId) (s : State) : Out :=
  let e := s.eng b
  match e.state, e.sub with
  | .CHECK, _ => entryChecks b s
  | .SETUP, _ => .next (setupStep b .WAIT_SPACE s)
  | .WAIT_SPACE, _ =>
    .next (if 0 < writeSpace s.params (s.ctl b) then goto b .ISSUE 0 s else pollAgain b false 0 s)
  | .ISSUE, _ => issueWord b true 0 .WAIT_RX s
  | .WAIT_RX, 0 => .next (if 0 < (s.ctl b).rxAvail then goto b .POP 0 s else goto b .WAIT_RX 1 s)
  | .WAIT_RX, 1 =>
    let s1 := noteAbort b (readAbrtSrc b s).1 (readAbrtSrc b s).2
    .next (if (readAbrtSrc b s).1 = 0 then pollAgain b e.budget 2 s1 else goto b .FINISH 0 s1)
  | .WAIT_RX, _ => .next (budgetDraw b s)
  | .POP, 0 =>
    popDataCmd b s fun d s1 => .next (goto b .POP 1 (s1.setEng b { s1.eng b with byte := d }))
  | .POP, _ =>
    match memWrite e.requester (e.operands.rbuf + e.k) e.byte s with
    | none => noStep s
    | some s1 => .next (nextByte b .WAIT_SPACE s1)
  | .FINISH, _ => .next (finishCall b s)
  | _, _ => noStep s

/-- What a WRITE request writes to the re-initialised engine context (R14, R146); `K` and the abort context are set again in
SETUP. -/
def loadWrite (ns : Bool) (a : BitVec ADDR_WIDTH) (o : Operands) (e : Engine) : Engine :=
  { e with state := .CHECK, op := .WRITE, addr := a, len := o.wlen, k := 0, ns := ns, budget := budgetOf o.tmo }

/-- What a READ request writes to the re-initialised engine context (R14, R158). -/
def loadRead (ns : Bool) (a : BitVec ADDR_WIDTH) (o : Operands) (e : Engine) : Engine :=
  { e with state := .CHECK, op := .READ, addr := a, len := o.rlen, k := 0, ns := ns, budget := budgetOf o.tmo }

/-- `WRITE` (R146): issued by a core, run by the engine. The engine's steps read the operands from its context. -/
def execWrite (b : BusId) (ns : Bool) (a : BitVec ADDR_WIDTH) (s : State) : Out :=
  match s.cur with
  | .core c => issueRequest c b (loadWrite ns a) s
  | _ => writeCallStep b s

/-- `READ` (R158): issued by a core, run by the engine. -/
def execRead (b : BusId) (ns : Bool) (a : BitVec ADDR_WIDTH) (s : State) : Out :=
  match s.cur with
  | .core c => issueRequest c b (loadRead ns a) s
  | _ => readCallStep b s

end Sys2Proof.Machine
end

