-- ==== Sys2Proof/Machine/Facade.lean ====
section
/-! DEFINITION. The bus controller façade (44_facade.md): CONFIGURE R171 and TRANSFER R174. -/

namespace Sys2Proof.Machine

/-- One step of `ENG[i]` in CONFIGURE (R171): `RESET_BLOCK → PROGRAM → FINISH`, where FINISH is the baud-rate programmer
without its CONFIGURED check. -/
def configureStep (b : BusId) (s : State) : Out :=
  let e := s.eng b
  match e.state, e.sub with
  | .RESET_BLOCK, 0 => .next (goto b .RESET_BLOCK 1 (blockReset b s))
  | .RESET_BLOCK, _ => .next (goto b .PROGRAM 0 (s.setEng b { e with configured := true }))
  | .PROGRAM, 0 => .next (goto b .PROGRAM 1 (disable b s))
  | .PROGRAM, 1 => .next (goto b .PROGRAM 2 (s.setEng b { e with ron := some false }))
  | .PROGRAM, 2 => .next (goto b .PROGRAM 3 (writeConMode b s))
  | .PROGRAM, 3 => .next (goto b .PROGRAM 4 (writeTxTl b 0 s))
  | .PROGRAM, 4 => .next (goto b .PROGRAM 5 (writeRxTl b 0 s))
  | .PROGRAM, _ => .next (goto b .FINISH 0 (writeDmaCr b true true s))
  | .FINISH, 0 => baudCheck b .FINISH 1 s
  | .FINISH, j + 1 =>
    if j < 7 then .next (goto b .FINISH (j + 2) (baudWrite b j s))
    else .next (returnResult b .OK 0 s)
  | _, _ => noStep s

/-- What a CONFIGURE request writes to the re-initialised engine context (R14, R171). -/
def loadConfigure (_ : Operands) (e : Engine) : Engine :=
  { e with state := .RESET_BLOCK, op := .CONFIGURE }

/-- `CONFIGURE` (R171): issued by a core, run by the engine. -/
def execConfigure (b : BusId) (s : State) : Out :=
  match s.cur with
  | .core c => issueRequest c b loadConfigure s
  | _ => configureStep b s

/-- TRANSFER's step 1 and the choice of its first phase (R174): NotConfigured, then the address, then the phases. -/
def transferCheck (b : BusId) (s : State) : Out :=
  let e := s.eng b
  if e.configured = false then fatal (.NotConfigured (.eng b) b .TRANSFER)
  else if badAddress e.addr then .next (returnResult b .InvalidTargetAddress 0 s)
  else if 0 < e.operands.wlen then .next (startWriteCall b s)
  else if 0 < e.operands.rlen then .next (startReadCall b s)
  else .next (returnResult b .OK 0 s)

/-- One step of `ENG[i]` in TRANSFER (R174). -/
def transferStep (b : BusId) (s : State) : Out :=
  let e := s.eng b
  if e.state = .CHECK ∧ e.sub = 0 then transferCheck b s
  else match e.phase with
    | .write => writeCallStep b s
    | .read => readCallStep b s

/-- What a TRANSFER request writes to the re-initialised engine context (R14, R174). -/
def loadTransfer (a : BitVec ADDR_WIDTH) (o : Operands) (e : Engine) : Engine :=
  { e with state := .CHECK, op := .TRANSFER, addr := a, len := 0, k := 0, ns := false, budget := budgetOf o.tmo,
           phase := .write }

/-- `TRANSFER` (R174): issued by a core, run by the engine. -/
def execTransfer (b : BusId) (a : BitVec ADDR_WIDTH) (s : State) : Out :=
  match s.cur with
  | .core c => issueRequest c b (loadTransfer a) s
  | _ => transferStep b s

end Sys2Proof.Machine
end

