-- ==== Sys2Proof/Machine/Spinlock.lean ====
section
/-! DEFINITION. The spinlock primitive (41_spinlock.md): LOCK_TAS R110, LOCK_CLR R111, SPIN_ACQ R116, SPIN_REL R118. -/

namespace Sys2Proof.Machine

/-- `LOCK_TAS` (R110) at the bank's port: the issuing core gets the value read. -/
def execLockTas (n : LockId) (s : State) : Out :=
  let c := s.cur.issuer
  let (v, s1) := lockTAS c n s
  .next (s1.setCore c { s1.coreOf c with lkaVal := v })

/-- `LOCK_CLR` (R111) at the bank's port. -/
def execLockClr (n : LockId) (s : State) : Out := .next (lockClr s.cur.issuer n s)

/-- `SPIN_ACQ` (R116), one primitive a step: the checks and the masking of interrupts, the test-and-set until it claims the
lock (R117), the acquire fence, the guard. -/
def execSpinAcq (id : Nat) (s : State) : Out :=
  let c := s.cur.issuer
  let k := s.coreOf c
  match k.frame.phase with
  | .ready =>
    if h : id < NUM_SPINLOCKS then
      if k.held.any fun g => decide (g.id.val = id) then fatal (.SelfDeadlock (.core c) c id)
      else .next (setPhase c (.acqTas ⟨id, h⟩ k.ie) (s.setCore c { k with ie := false }))
    else fatal (.SpinlockIdOutOfRange (.core c) c id)
  | .acqTas n saved =>
    if (lockTAS c n s).1 ≠ 0 then .next (setPhase c (.acqFence n saved) (lockTAS c n s).2) else noStep s
  | .acqFence n saved => .next (setPhase c (.acqPush n saved) (fenceAcq c s))
  | .acqPush n saved => .next (nextLine c (s.setCore c { k with held := ⟨n, saved⟩ :: k.held }))
  | _ => noStep s

/-- `SPIN_REL` (R118), one primitive a step: the checks and the pop of the guard, the release fence, the clear, the restored
interrupt enable. -/
def execSpinRel (id : Nat) (s : State) : Out :=
  let c := s.cur.issuer
  let k := s.coreOf c
  match k.frame.phase with
  | .ready =>
    if NUM_SPINLOCKS ≤ id then fatal (.SpinlockIdOutOfRange (.core c) c id)
    else match k.held with
      | g :: r =>
        if g.id.val = id then .next (setPhase c (.relFence g.id g.savedIE) (s.setCore c { k with held := r }))
        else fatal (.GuardMismatch (.core c) c id (some g))
      | [] => fatal (.GuardMismatch (.core c) c id none)
  | .relFence n saved => .next (setPhase c (.relClr n saved) (fenceRel c s))
  | .relClr n saved => .next (setPhase c (.relIE saved) (lockClr c n s))
  | .relIE saved => .next (nextLine c (s.setCore c { k with ie := saved }))
  | _ => noStep s

end Sys2Proof.Machine
end

