-- ==== Sys2Proof/Machine/Dispatch.lean ====
section
/-! DEFINITION. The meaning of every instruction, one arm each. -/

namespace Sys2Proof.Machine

/-- One step of the instruction `i` by the agent `s.cur` (R57). -/
def exec (i : Instr) (s : State) : Host.Outcome State Fault Refusal :=
  match i with
  | .configure bi => Sys2Proof.Machine.execConfigure bi s
  | .setbaud bi => Sys2Proof.Machine.execSetbaud bi s
  | .write bi ns a8 => Sys2Proof.Machine.execWrite bi ns a8 s
  | .read bi ns a8 => Sys2Proof.Machine.execRead bi ns a8 s
  | .transfer bi a8 => Sys2Proof.Machine.execTransfer bi a8 s
  | .spinAcq id => Sys2Proof.Machine.execSpinAcq id s
  | .spinRel id => Sys2Proof.Machine.execSpinRel id s
  | .cmdWrite dat stop restart => Sys2Proof.Machine.execCmdWrite dat stop restart s
  | .cmdRead dat stop restart => Sys2Proof.Machine.execCmdRead dat stop restart s
  | .lockTas n => Sys2Proof.Machine.execLockTas n s
  | .lockClr n => Sys2Proof.Machine.execLockClr n s

end Sys2Proof.Machine
end

