-- ==== Sys2Proof/Machine/Script.lean ====
section
/-! DEFINITION. The host-script lines that are no requests (R86), and the entry and return of a core's interrupt handler
(R191). These are the cores' software, not hardware. -/

namespace Sys2Proof.Machine

/-- Set a host variable and go on. -/
def setVar (c : CoreId) (r v : Nat) (s : State) : State :=
  let k := s.coreOf c
  nextLine c (s.setCore c { k with vars := varSet k.vars r v })

/-- A branch (R86). -/
def branch (c : CoreId) (taken : Bool) (t : Nat) (s : State) : State :=
  if taken then jumpTo c t s else nextLine c s

/-- The byte a four-byte access has come to, its address and what it carries: from the line's operands at byte 0. -/
def CorePhase.wordAt (p : CorePhase) (addr acc : Nat) : Nat × Nat × Nat :=
  match p with
  | .word k a w => (k, a, w)
  | _ => (0, addr, acc)

/-- `STW`: one byte a step, least significant first (R49, R86; log 19). Of a value that does not fit four bytes, which R86 does
not speak of, the low 32 bits are stored: DESIGN CHOICE, log 19. -/
def stwStep (c : CoreId) (addr v : Nat) (s : State) : Out :=
  let (k, a, w) := (s.coreOf c).frame.phase.wordAt addr v
  match memWrite c (a + k) (BitVec.ofNat 8 (w / 256 ^ k)) s with
  | none => noStep s
  | some s1 => .next (if k < 3 then setPhase c (.word (k + 1) a w) s1 else nextLine c s1)

/-- `LDW`: one byte a step, least significant first (R49, R86; log 19). -/
def ldwStep (c : CoreId) (r addr : Nat) (s : State) : Out :=
  let (k, a, w) := (s.coreOf c).frame.phase.wordAt addr 0
  match memRead c (a + k) s with
  | none => noStep s
  | some (d, s1) =>
    .next (if k < 3 then setPhase c (.word (k + 1) a (w + d.toNat * 256 ^ k)) s1
      else setVar c r (w + d.toNat * 256 ^ k) s1)

/-- One step of core `c` at a line that is no request (R86). -/
def scriptStep (c : CoreId) (l : ScriptLine) (s : State) : Out :=
  let k := s.coreOf c
  match l with
  | .req _ _ => noStep s
  | .stb a v =>
    match memWrite c (k.addr a) (BitVec.ofNat 8 (k.val v)) s with
    | none => noStep s
    | some s1 => .next (nextLine c s1)
  | .ldb r a =>
    match memRead c (k.addr a) s with
    | none => noStep s
    | some (d, s1) => .next (setVar c r d.toNat s1)
  | .stw a v => stwStep c (k.addr a) (k.val v) s
  | .ldw r a => ldwStep c r (k.addr a) s
  | .b t => .next (branch c true t s)
  | .bOK t => .next (branch c (decide (k.lastResult = .OK)) t s)
  | .bNOK t => .next (branch c (decide (k.lastResult ≠ .OK)) t s)
  | .bEQ code t => .next (branch c (decide (k.lastResult = code)) t s)
  | .bVEQ r v t => .next (branch c (decide (varGet k.vars r = k.val v)) t s)
  | .bVNE r v t => .next (branch c (decide (varGet k.vars r ≠ k.val v)) t s)
  | .addi rd rs imm => .next (setVar c rd (varGet k.vars rs + imm) s)
  | .halt => .next (s.setCore c { k with halted := true })
  | .setIE v => .next (nextLine c (s.setCore c { k with ie := v }))

/-- A handler preempts core `c`, only while `IE[c] = 1` and the core has not halted (R191). It may also start on a core past its
script's last line, which R191 does not speak of: DESIGN CHOICE, log 27. -/
def irqStep (c : CoreId) (s : State) : Out :=
  let k := s.coreOf c
  if k.ie = true ∧ k.halted = false then
    let (h, s1) := drawHandler s
    .next (s1.setCore c { k with frame := ⟨h, 0, .ready⟩, saved := k.frame :: k.saved })
  else noStep s

/-- Past a script's last line: a handler is complete and what it preempted resumes (R191); the core's own script has no step
left. -/
def scriptEnd (c : CoreId) (s : State) : Out :=
  let k := s.coreOf c
  match k.saved with
  | f :: r => .next (s.setCore c { k with frame := f, saved := r })
  | [] => noStep s

end Sys2Proof.Machine
end

