-- ==== Sys2Proof/Machine/Agents.lean ====
section
/-! DEFINITION. What each agent does when the scheduler picks it: where it finds its instruction and that it runs it. -/

namespace Sys2Proof.Machine

open Sys2Proof.Config

/-- The request `ENG[i]` runs, as an instruction (R14 `OP`, `ADDR`, `NS`). -/
def Engine.instr (b : BusId) (e : Engine) : Instr :=
  match e.op with
  | .CONFIGURE => .configure b
  | .SETBAUD => .setbaud b
  | .WRITE => .write b e.ns e.addr
  | .READ => .read b e.ns e.addr
  | .TRANSFER => .transfer b e.addr

/-- `CORE[c]` (R13): the line at its script index; a request word is decoded and run, an illegal one is
`fatal IllegalRequest` before anything changes (R77). -/
def coreStep (c : CoreId) (s : State) : Out :=
  let k := s.coreOf c
  if k.halted then noStep s
  else match k.line with
    | none => scriptEnd c s
    | some (.req q _) =>
      match decodeErq q with
      | .ok i => exec i (s.setCur (.core c))
      | .error _ => fatal (.IllegalRequest (.core c) q)
    | some l => scriptStep c l (s.setCur (.core c))

/-- `ENG[i]` (R13, R17): one primitive of its request; `IDLE`, it has no step. -/
def engStep (b : BusId) (s : State) : Out :=
  if (s.eng b).state = .IDLE then noStep s else exec ((s.eng b).instr b) (s.setCur (.eng b))

/-- PERFORM of `CTL[i]` (R89): the in-flight command word. -/
def performStep (b : BusId) (s : State) : Out :=
  match (s.ctl b).inflight with
  | none => noStep s
  | some w => exec (decodeCmdw w) (s.setCur (.ctl b))

/-- `LOCKBANK` (R13): the first access waiting at its port. -/
def bankStep (s : State) : Out :=
  match s.lkaQ with
  | [] => noStep s
  | (c, w) :: r => exec (decodeLka w) ((s.setLkaQ r).setCur (.bank c))

/-- The step the scheduler picked (R11, R57). -/
def runPick (p : Pick) (s : State) : Out :=
  match p with
  | .core c => coreStep c s
  | .irq c => irqStep c (s.setCur (.core c))
  | .eng b => engStep b s
  | .load b => ctlLoad b (s.setCur (.ctl b))
  | .perform b => performStep b s
  | .stop b => ctlStop b (s.setCur (.ctl b))
  | .otherAbort b => ctlOtherAbort b (s.setCur (.ctl b))
  | .bank => bankStep s
  | .ahead c a v => announce c a v (s.setCur (.core c))

/-- Put a request line at core `c`'s script index: the lines before it stay (the index past the script's end is reached over
HALT lines), and the core is ready to run it. -/
def placeRequest (c : CoreId) (q : Word) (o : Operands) (s : State) : State :=
  let k := s.coreOf c
  let f := k.frame
  let before := f.lines.take f.pc ++ List.replicate (f.pc - f.lines.length) .halt
  s.setCore c { k with
    halted := false
    frame := { f with lines := before ++ .req q o :: f.lines.drop (f.pc + 1), phase := .ready } }

/-- Put a command word in flight at a controller that may perform it (R89), with a target address if none is written
(R94). -/
def placeCommand (b : BusId) (w : CmdWord) (s : State) : State :=
  let x := s.ctl b
  s.setCtl b { x with
    inflight := some w
    en := some true
    con := { x.con with masterMode := some true, restartEn := some true, addr10Master := some false }
    tar := some (x.tar.getD 0x50) }

/-- Put a bank access of core `c` first at the bank's port. -/
def placeAccess (c : CoreId) (w : LkaWord) (s : State) : State := s.setLkaQ ((c, w) :: s.lkaQ)

/-- The scheduler picks `p` next. -/
def pickNext (p : Pick) (s : State) : State := s.setOracle { s.oracle with sched := p :: s.oracle.sched }

/-- Put the word on the port the table's row has (log 20, log 21), and pick the agent that runs it. -/
def placeWord (nbits w : Nat) (s : State) : State :=
  let word : Word := BitVec.ofNat 32 (w % 2 ^ nbits)
  match tablePort nbits w with
  | .request => pickNext (.core .core0) (placeRequest .core0 word .zero s)
  | .dataCmd => pickNext (.perform .i2c0) (placeCommand .i2c0 (word.setWidth 11) s)
  | .lockBank => pickNext .bank (placeAccess .core0 (word.setWidth 6) s)

end Sys2Proof.Machine
end

