-- ==== Sys2Proof/Machine/Step.lean ====
section
/-! DEFINITION. One step of the machine, and a word placed where the next step finds it. -/

namespace Sys2Proof.Machine

/-- One step: the scheduler picks an agent, and that agent takes one indivisible step (R11, R57, R189). -/
def step (s : State) : Host.Outcome State Fault Refusal := runPick (drawPick s).1 (drawPick s).2

/-- `s` with the opcode table's word `w` of `nbits` bits where the next step finds it: a request at core 0's script index with
an operand record of zeros, a command word in flight at instance 0, or an access at the bank's port; and the scheduler's next
pick is the agent that runs it (log 20). -/
def State.withFetchWord (s : State) (nbits w : Nat) : State := placeWord nbits w s

end Sys2Proof.Machine
end

