-- ==== Sys2Proof/Safety.lean ====
section
/-! DEFINITION. What claims about the machine are stated in: an instruction run several times in a row, several picks in a row,
runs, fairness, what a step leaves unchanged, and the invariants. -/

namespace Sys2Proof.Machine

open Sys2Proof.Config

/-! ## Several steps -/

/-- `n` steps of instruction `i` by the agent `s.cur`, with no other agent's step between them: one run of the scheduler
(R11). -/
def execTimes (i : Instr) : Nat → State → Out
  | 0, s => .next s
  | n + 1, s =>
    match exec i s with
    | .next t => execTimes i n t
    | .fault f => .fault f
    | .refused r => .refused r

/-- The picks of a scheduler, one after the other (R11). -/
def runPicks : List Pick → State → Out
  | [], s => .next s
  | p :: r, s =>
    match runPick p s with
    | .next t => runPicks r t
    | .fault f => .fault f
    | .refused e => .refused e

/-- The same change made to the next state of an outcome. -/
def mapNext (f : State → State) : Out → Out
  | .next s => .next (f s)
  | .fault e => .fault e
  | .refused e => .refused e

/-- A run that no fatal ends. -/
def IsRun (r : Nat → State) : Prop := ∀ n, step (r n) = .next (r (n + 1))

/-- The scheduler's pick in state `s`. -/
def State.pick (s : State) : Pick := (drawPick s).1

/-- Is the step of the pick enabled, for the steps of a controller (R89, R92, R95, R97, R100, R102)? -/
def ctlEnabled (s : State) : Pick → Prop
  | .load b => (s.ctl b).canRun = true ∧ (s.ctl b).inflight = none ∧ (s.ctl b).pendingStop = false ∧ (s.ctl b).txq ≠ []
  | .perform b => (s.ctl b).canRun = true ∧
      ∃ w, (s.ctl b).inflight = some w ∧ (w.getLsbD 8 = true → (s.ctl b).rxq.length < s.params.RXQ_DEPTH)
  | .stop b => (s.ctl b).pendingStop = true
  | .otherAbort b => (s.ctl b).canRun = true ∧ (s.ctl b).inflight ≠ none ∧ s.params.OTHER_ABORTS = true
  | .core _ => False
  | .irq _ => False
  | .eng _ => False
  | .bank => False
  | .ahead _ _ _ => False

/-- The four steps of `CTL[i]` (R89). -/
def ctlPicks (b : BusId) : List Pick := [.load b, .perform b, .stop b, .otherAbort b]

/-- `BusProgress(i)` (R91): a step of `CTL[i]` that stays enabled is eventually taken. A premise, never assumed (log 28). -/
def BusProgress (b : BusId) (r : Nat → State) : Prop :=
  ∀ p ∈ ctlPicks b, ∀ n, (∀ m, n ≤ m → ctlEnabled (r m) p) → ∃ m, n ≤ m ∧ (r m).pick = p

/-- Weak fairness to an agent's pick (R120): it is picked again and again. A premise, never assumed (log 28). -/
def FairTo (p : Pick) (r : Nat → State) : Prop := ∀ n, ∃ m, n ≤ m ∧ (r m).pick = p

/-- Is the engine at the draw of a wait with a budget (R143, R151, R157)? -/
def Engine.atDraw (e : Engine) : Prop :=
  e.budget = true ∧ ((e.state = .WAIT_TX_EMPTY ∧ e.sub = 1) ∨ (e.state = .WAIT_STOP ∧ e.sub = 1) ∨
    (e.state = .WAIT_RX ∧ e.sub = 2))

/-- The engine of `b` takes a budget draw at step `n` of the run (R143, R151, R157). -/
def DrawsAt (b : BusId) (r : Nat → State) (n : Nat) : Prop := (r n).pick = .eng b ∧ ((r n).eng b).atDraw

/-- The law of `draw_timeout()` (R193), about one wait: an engine that never leaves the wait `st` from step `n` on, and draws in
it again and again, has a draw that is true. Waits that end, however many, are under no law. A premise, never assumed (log 28). -/
def TimeoutFair (b : BusId) (r : Nat → State) : Prop :=
  ∀ n st, (∀ m, n ≤ m → ((r m).eng b).state = st) → (∀ m, n ≤ m → ∃ k, m ≤ k ∧ DrawsAt b r k) →
    ∃ m, n ≤ m ∧ DrawsAt b r m ∧ (drawTimeout (drawPick (r m)).2).1 = true

/-- Every announced write is performed (R61): none stands for ever. The runs of the spec keep it; the other runs of the model are
additional ones. A premise, never assumed (log 12, log 28). -/
def AnnouncementsKept (r : Nat → State) : Prop :=
  ∀ n, ∀ w ∈ (r n).ahead, ∃ m, n ≤ m ∧ ∀ w' ∈ (r m).ahead, w'.num ≠ w.num

/-! ## What a step leaves unchanged -/

/-- Every byte of memory reads as before, and no write was made. -/
def SameMemory (s t : State) : Prop := (∀ a, t.mem.read a = s.mem.read a) ∧ t.writes = s.writes

/-- The whole lock bank is as before, and what waits at its port. -/
def SameLocks (s t : State) : Prop := (∀ n, t.lock n = s.lock n) ∧ t.lkaQ = s.lkaQ

/-- Every register, queue, flag and the engine context of instance `b` is as before. -/
def SameBus (b : BusId) (s t : State) : Prop := t.eng b = s.eng b ∧ t.ctl b = s.ctl b

/-- Every other instance is as before (R177). -/
def SameOtherBus (b : BusId) (s t : State) : Prop := ∀ b', b' ≠ b → SameBus b' s t

/-- Both instances are as before. -/
def SameBuses (s t : State) : Prop := ∀ b, SameBus b s t

/-- Everything of both cores is as before. -/
def SameCores (s t : State) : Prop := ∀ c, t.coreOf c = s.coreOf c

/-- The core that is not `c` is as before. -/
def SameOtherCore (c : CoreId) (s t : State) : Prop := ∀ c', c' ≠ c → t.coreOf c' = s.coreOf c'

/-- Core `c` keeps everything but what a returned result writes, its frames' positions (R18, R58). -/
def SameCoreButFrames (c : CoreId) (s t : State) : Prop :=
  ∃ f sv, t.coreOf c = { s.coreOf c with frame := f, saved := sv }

/-- What is outside instance `b`'s own engine and controller, the cores apart, is as before. -/
def OnlyBus (b : BusId) (s t : State) : Prop :=
  SameOtherBus b s t ∧ SameLocks s t ∧ SameMemory s t ∧ t.params = s.params ∧ t.cur = s.cur

/-- What is outside the cores and the lock bank is as before. -/
def OnlyCoresAndLocks (s t : State) : Prop :=
  SameBuses s t ∧ SameMemory s t ∧ t.ahead = s.ahead ∧ t.params = s.params ∧ t.oracle = s.oracle ∧ t.cur = s.cur

/-- The engine has returned `r` with index `idx` to core `c`, which was waiting for it (R18, R182). -/
def Returned (b : BusId) (c : CoreId) (r : Result) (idx : Nat) (t : State) : Prop :=
  (t.eng b).state = .IDLE ∧ (t.eng b).result = r ∧ (t.eng b).resultIndex = idx ∧
    (t.coreOf c).frame.phase = .gotResult r idx

/-- The engine of instance `b` runs and its requester waits for it (R58). -/
def Waiting (b : BusId) (s : State) : Prop := (s.coreOf (s.eng b).requester).frame.phase = .waitEng b

/-- Instance `b` replaced as a whole. -/
def State.setBus (s : State) (b : BusId) (z : Bus) : State := { s with bus := s.bus.set b z }

/-- `ENG[b]` is the agent and stands at statement `sub` of FSM state `st`. -/
def AtEng (b : BusId) (st : EngState) (sub : Nat) (s : State) : Prop :=
  s.cur = .eng b ∧ (s.eng b).state = st ∧ (s.eng b).sub = sub

/-- The engine of `b` has moved to statement `sub` of FSM state `st`, the rest of its context as before. -/
def MovedTo (b : BusId) (st : EngState) (sub : Nat) (s t : State) : Prop :=
  t.eng b = { s.eng b with state := st, sub := sub }

/-- Core `c` is the agent, between two lines of its script. -/
def AtCore (c : CoreId) (s : State) : Prop := s.cur = .core c ∧ (s.coreOf c).frame.phase = .ready

/-- The controller `x` may run commands (R89). -/
def Ctl.Runs (x : Ctl) : Prop :=
  x.en = some true ∧ x.con.masterMode = some true ∧ x.con.restartEn = some true ∧ x.con.addr10Master = some false

/-- From `x`, a command that carried `stop` and direction `rw` has ended without an abort, with the bus events `ev` (R99). -/
def EndedCommand (stop : Bool) (rw : Dir) (ev : List BusEvent) (x y : Ctl) : Prop :=
  y.trace = x.trace ++ ev ∧ y.inflight = none ∧
    (stop = true → y.pendingStop = true ∧ y.busOpen = x.busOpen ∧ y.dir = x.dir) ∧
    (stop = false → y.pendingStop = x.pendingStop ∧ y.busOpen = true ∧ y.dir = rw) ∧
    y.con = x.con ∧ y.tar = x.tar ∧ y.en = x.en ∧ y.fsHcnt = x.fsHcnt ∧ y.fsLcnt = x.fsLcnt ∧
    y.fsSpklen = x.fsSpklen ∧ y.txHold = x.txHold ∧ y.txTl = x.txTl ∧ y.rxTl = x.rxTl ∧ y.dmaCr = x.dmaCr ∧
    y.txq = x.txq ∧ y.abrtSrc = x.abrtSrc ∧ y.stopDet = x.stopDet ∧ y.resetCtl = x.resetCtl

/-- From `x`, an abort with bits `m` and further drawn bits, with the bus events `ev` before it (R101). -/
def AbortedWith (m : Word) (ev : List BusEvent) (x y : Ctl) : Prop :=
  ∃ extra, y = { x with
    trace := x.trace ++ ev, abrtSrc := x.abrtSrc ||| m ||| extra, txq := [], inflight := none, pendingStop := true }

/-- The illegal ERQ words by their fields (R70, R77): a reserved `OP`, or a must-be-zero field that is not zero. -/
def IllegalErq (q : Word) : Prop :=
  let op := q.extractLsb' 0 4
  op = 0 ∨ 8 ≤ op.toNat ∨ q.extractLsb' 16 16 ≠ 0 ∨ q.extractLsb' 6 2 ≠ 0 ∨
    (q.getLsbD 4 = true ∧ op ≠ 3 ∧ op ≠ 4) ∨ (q.getLsbD 5 = true ∧ (op = 6 ∨ op = 7)) ∨
    (q.extractLsb' 8 8 ≠ 0 ∧ (op = 1 ∨ op = 2))

/-! ## Invariants -/

/-- Memory and the host variables are in canonical form. -/
def State.DataInv (s : State) : Prop := s.mem.wf = true ∧ ∀ c, varsWf (s.coreOf c).vars = true

/-- The engine states in which the queue of a WRITE call is empty (R149, R153). -/
def Engine.txqDrained (e : Engine) : Prop :=
  (e.state = .SETUP ∧ 1 ≤ e.sub) ∨ e.state = .CHECK_ABORT ∨ e.state = .WAIT_STOP ∨ e.state = .CLEAR_STOP

/-- The FIFOs stay inside their capacity, and where the engine pushes or pops there is room or a byte (R27, R28, R153, R156,
R160). -/
def State.FifoInv (s : State) : Prop :=
  1 ≤ s.params.TXQ_DEPTH ∧ ∀ b,
    (s.ctl b).txq.length ≤ s.params.TXQ_DEPTH ∧ (s.ctl b).rxq.length ≤ s.params.RXQ_DEPTH ∧
    ((s.eng b).txqDrained → (s.ctl b).txq = []) ∧
    ((s.eng b).state = .ISSUE → (s.ctl b).txq.length < s.params.TXQ_DEPTH) ∧
    ((s.eng b).state = .POP ∧ (s.eng b).sub = 0 → (s.ctl b).rxq ≠ [])

/-- A 7-bit address outside the reserved blocks (R108). -/
def LegalTarget (a : BitVec 7) : Prop := a &&& 0x78 ≠ 0 ∧ a &&& 0x78 ≠ 0x78

/-- The engine has only let legal addresses through to the target register and the bus (R108, R141). -/
def State.AddrInv (s : State) : Prop :=
  ∀ b, ((s.eng b).state = .SETUP → badAddress (s.eng b).addr = false) ∧
    (∀ a, (s.ctl b).tar = some a → LegalTarget a) ∧
    (∀ a rw, BusEvent.ADDR a rw ∈ (s.ctl b).trace → LegalTarget a)

/-- The count registers hold only counts the range check accepts (R22, R128). -/
def State.CountsInv (s : State) : Prop :=
  ∀ b, (∀ h, (s.ctl b).fsHcnt = some h → CNT_MIN ≤ h.toNat) ∧ (∀ l, (s.ctl b).fsLcnt = some l → CNT_MIN ≤ l.toNat)

/-- The engine states of a WRITE or READ call after its entry checks. -/
def Engine.inCall (e : Engine) : Prop :=
  e.state = .SETUP ∨ e.state = .ISSUE ∨ e.state = .WAIT_TX_EMPTY ∨ e.state = .CHECK_ABORT ∨ e.state = .WAIT_STOP ∨
    e.state = .CLEAR_STOP ∨ e.state = .WAIT_SPACE ∨ e.state = .WAIT_RX ∨ e.state = .POP

/-- The same, once SETUP has programmed the target address. -/
def Engine.pastTar (e : Engine) : Prop := e.inCall ∧ (e.state = .SETUP → 2 ≤ e.sub)

/-- The part of a CONFIGURE before statement `j` of PROGRAM has run (R171). -/
def Engine.configuring (e : Engine) (j : Nat) : Prop :=
  e.state = .RESET_BLOCK ∨ (e.state = .PROGRAM ∧ e.op = .CONFIGURE ∧ e.sub ≤ j)

/-- What the engine and the controller are about to read has been written (R42): the target address before a command is queued,
`RON` and `TX_EMPTY_CTRL` of a configured instance. -/
def State.WrittenInv (s : State) : Prop :=
  ∀ b, ((s.ctl b).inflight ≠ none ∨ (s.ctl b).txq ≠ [] ∨ (s.eng b).pastTar → (s.ctl b).tar ≠ none) ∧
    ((s.eng b).state = .SETUP ∧ (s.eng b).sub = 1 → (s.ctl b).en = some false) ∧
    ((s.eng b).inCall → (s.eng b).configured = true) ∧
    ((s.eng b).configured = true ∧ ¬ (s.eng b).configuring 1 → (s.eng b).ron ≠ none) ∧
    ((s.eng b).configured = true ∧ ¬ (s.eng b).configuring 2 → (s.ctl b).con.txEmptyCtrl ≠ none) ∧
    ((s.eng b).state = .PROGRAM ∧ (s.eng b).op = .CONFIGURE ∧ 1 ≤ (s.eng b).sub ∧ (s.eng b).sub ≤ 2 →
      (s.ctl b).en = some false)

/-- The locks a core holds by its position inside SPIN_ACQ or SPIN_REL: claimed and not yet a guard, or no longer a guard and not
yet cleared. -/
def CorePhase.claims : CorePhase → List LockId
  | .acqFence n _ => [n]
  | .acqPush n _ => [n]
  | .relFence n _ => [n]
  | .relClr n _ => [n]
  | .ready => []
  | .waitEng _ => []
  | .gotResult _ _ => []
  | .acqTas _ _ => []
  | .relIE _ => []
  | .word _ _ _ => []

/-- Every lock a core is between its successful test-and-set and its clear of. -/
def Core.claims (k : Core) : List LockId :=
  k.held.map (·.id) ++ (k.frame.phase.claims ++ k.saved.flatMap fun f => f.phase.claims)

/-- Mutual exclusion (R65): no lock is inside two intervals, of one core or of both, and a lock inside one is claimed. It holds
where no LKA access waits at the bank's own port, since such a clear frees a lock whoever claimed it (R111). -/
def State.MutexInv (s : State) : Prop :=
  s.lkaQ = [] ∧ ((s.coreOf .core0).claims ++ (s.coreOf .core1).claims).Nodup ∧
    ∀ n, n ∈ (s.coreOf .core0).claims ++ (s.coreOf .core1).claims → (s.lock n).claimed = true

/-- The log of writes is the history of memory: the newest write of a byte is what it holds, and one core's writes are numbered
in its program order (R58, R61). The announced writes that stand have numbers of their own, are to bytes that exist, and have been
raced with by the other core alone. -/
def State.LogInv (s : State) : Prop :=
  s.mem.wf = true ∧
    (∀ a e, (s.writesOf a).head? = some e → e.val = s.mem.read a) ∧
    (∀ e ∈ s.writes, e.seq ≤ (s.coreOf e.core).nWrites) ∧
    (s.writes.Pairwise fun new old => new.core = old.core → old.seq < new.seq) ∧
    (s.ahead.Pairwise fun new old => old.num < new.num) ∧
    ∀ w ∈ s.ahead, s.params.inMemory w.addr = true ∧
      ∀ c fences, w.raced = some (c, fences) → c ≠ w.core ∧ fences ≤ ((s.coreOf c).relView.get c).fences

end Sys2Proof.Machine
end

