-- ==== Sys2Proof/Certificates/Slice0/Obligations.lean ====
section
/-! DEFINITION. The statements about the machine, for the provers. -/

open Sys2Proof Sys2Proof.Machine Sys2Proof.Config

/-! ## Encoding and decoding -/

/-- R70 to R76, R79, R80: every bit of an encoding is read. -/
def Obligations.DecodeOfEncodeIsTheInstruction : Prop :=
  ∀ i : Instr, i.wf = true → decode i.port (encode i) = .ok i

/-- R70 to R76, R79, R80: a word a decoder takes is the word of the instruction it reads, and no CMDW or LKA word is refused. -/
def Obligations.EncodeOfDecodeIsTheWord : Prop :=
  (∀ q i, decode .request q = .ok i → encode i = q ∧ i.wf = true ∧ i.port = .request) ∧
  (∀ w : CmdWord, encode (decodeCmdw w) = w.setWidth 32 ∧ (decodeCmdw w).port = .dataCmd) ∧
  (∀ w : LkaWord, encode (decodeLka w) = w.setWidth 32 ∧ (decodeLka w).port = .lockBank)

/-- R77: which ERQ words are illegal, by field and by the rows of R76, and that issuing one is fatal before any state
changes. -/
def Obligations.IllegalRequestIsFatal : Prop :=
  (∀ q, IllegalErq q ↔ ∀ r ∈ opRows, r.port = .request → q &&& r.mask ≠ r.pattern) ∧
  ∀ c s q o, (s.coreOf c).halted = false → (s.coreOf c).line = some (.req q o) →
    (IllegalErq q → runPick (.core c) s = .fault (.IllegalRequest (.core c) q)) ∧
    (¬ IllegalErq q → ∃ i, decodeErq q = .ok i ∧ runPick (.core c) s = exec i (s.setCur (.core c)))

/-- R83, R87: worked encodings, each word written out from the rule. -/
def Obligations.WorkedEncodingsDecode : Prop :=
  decode .request 0x00000021 = .ok (.configure .i2c1) ∧ decode .request 0x00000002 = .ok (.setbaud .i2c0) ∧
  decode .request 0x00005013 = .ok (.write .i2c0 true 0x50) ∧ decode .request 0x00005004 = .ok (.read .i2c0 false 0x50) ∧
  decode .request 0x00005034 = .ok (.read .i2c1 true 0x50) ∧ decode .request 0x00003C05 = .ok (.transfer .i2c0 0x3C) ∧
  decode .request 0x00000506 = .ok (.spinAcq 5) ∧ decode .request 0x00000507 = .ok (.spinRel 5) ∧
  decode .request 0x00005015 = .error .mustBeZero ∧
  decode .dataCmd 0x4A5 = .ok (.cmdWrite 0xA5 false true) ∧ decode .dataCmd 0x210 = .ok (.cmdWrite 0x10 true false) ∧
  decode .dataCmd 0x300 = .ok (.cmdRead 0 true false) ∧ decode .dataCmd 0x700 = .ok (.cmdRead 0 true true) ∧
  decode .lockBank 0x05 = .ok (.lockTas 5) ∧ decode .lockBank 0x25 = .ok (.lockClr 5)

/-! ## A step runs the decoded instruction -/

/-- R11, R13, R57: a step is the step of the agent the scheduler picks. A core that is not halted runs the request at its script
index, an engine the request it has accepted, a controller the command in flight, the bank the first access at its port: `exec` of
the decoded instruction, by that agent. -/
def Obligations.StepRunsTheDecodedInstruction : Prop :=
  ∀ s s0,
    (∀ c q o i, drawPick s = (.core c, s0) → (s0.coreOf c).halted = false → (s0.coreOf c).line = some (.req q o) →
      decode .request q = .ok i → step s = exec i (s0.setCur (.core c))) ∧
    (∀ b, drawPick s = (.eng b, s0) → (s0.eng b).state ≠ .IDLE →
      step s = exec ((s0.eng b).instr b) (s0.setCur (.eng b))) ∧
    (∀ b w i, drawPick s = (.perform b, s0) → (s0.ctl b).inflight = some w → decode .dataCmd (w.setWidth 32) = .ok i →
      step s = exec i (s0.setCur (.ctl b))) ∧
    (∀ c w r i, drawPick s = (.bank, s0) → s0.lkaQ = (c, w) :: r → decode .lockBank (w.setWidth 32) = .ok i →
      step s = exec i ((s0.setLkaQ r).setCur (.bank c)))

/-- R88, R184: no step of any state is refused: every legal word has a meaning. -/
def Obligations.NoStepIsRefused : Prop := ∀ s r, step s ≠ .refused r

/-! ## The lock bank -/

/-- R110: the test-and-set read, with its encoding and its frame. The value read stands in the core's `lkaVal` (log 22). -/
def Obligations.LockTasReadsAndClaims : Prop :=
  (∀ n : LockId, decode .lockBank (BitVec.ofNat 32 n.val) = .ok (.lockTas n)) ∧
  ∀ n c s, s.cur = .bank c → ∃ t, exec (.lockTas n) s = .next t ∧
    (t.lock n).claimed = true ∧
    ((s.lock n).claimed = false → (t.coreOf c).lkaVal = (1 : Word) <<< n.val ∧ (t.coreOf c).lkaVal ≠ 0) ∧
    ((s.lock n).claimed = true → (t.coreOf c).lkaVal = 0 ∧ t.lock n = s.lock n) ∧
    (∀ n', n' ≠ n → t.lock n' = s.lock n') ∧ t.lkaQ = s.lkaQ ∧ OnlyCoresAndLocks s t ∧ SameOtherCore c s t ∧
    t.coreOf c = { s.coreOf c with lkaVal := (t.coreOf c).lkaVal, pendView := (t.coreOf c).pendView }

/-- R111: the release write, with its encoding and its frame, whichever core claimed the lock. -/
def Obligations.LockClrFrees : Prop :=
  (∀ n : LockId, decode .lockBank (BitVec.ofNat 32 (0x20 + n.val)) = .ok (.lockClr n)) ∧
  ∀ n c s, s.cur = .bank c → ∃ t, exec (.lockClr n) s = .next t ∧
    (t.lock n).claimed = false ∧ (∀ n', n' ≠ n → t.lock n' = s.lock n') ∧ t.lkaQ = s.lkaQ ∧
    OnlyCoresAndLocks s t ∧ SameCores s t

/-! ## SPIN_ACQ and SPIN_REL -/

/-- R116: SPIN_ACQ of a free lock the core does not hold, run to its end. -/
def Obligations.SpinAcqTakesAFreeLock : Prop :=
  ∀ (n : LockId) c s, AtCore c s → (s.lock n).claimed = false → (∀ g ∈ (s.coreOf c).held, g.id ≠ n) →
    ∃ t, execTimes (.spinAcq n.val) 4 s = .next t ∧
      (t.coreOf c).ie = false ∧ (t.lock n).claimed = true ∧
      (t.coreOf c).held = ⟨n, (s.coreOf c).ie⟩ :: (s.coreOf c).held ∧
      (t.coreOf c).frame = { (s.coreOf c).frame with pc := (s.coreOf c).frame.pc + 1, phase := .ready } ∧
      (∀ n', n' ≠ n → t.lock n' = s.lock n') ∧ t.lkaQ = s.lkaQ ∧ OnlyCoresAndLocks s t ∧ SameOtherCore c s t ∧
      t.coreOf c = { s.coreOf c with
        ie := false, held := (t.coreOf c).held, frame := (t.coreOf c).frame,
        pendView := (t.coreOf c).pendView, acqView := (t.coreOf c).acqView }

/-- R116, R117: interrupts are masked before the first test-and-set, and each test-and-set of a claimed lock changes nothing: the
core spins. -/
def Obligations.SpinAcqMasksAndSpins : Prop :=
  (∀ (n : LockId) c s, AtCore c s → (∀ g ∈ (s.coreOf c).held, g.id ≠ n) →
    ∃ t, exec (.spinAcq n.val) s = .next t ∧
      (t.coreOf c).ie = false ∧ (t.coreOf c).frame.phase = .acqTas n (s.coreOf c).ie ∧
      SameLocks s t ∧ OnlyCoresAndLocks s t ∧ SameOtherCore c s t ∧
      t.coreOf c = { s.coreOf c with ie := false, frame := (t.coreOf c).frame }) ∧
  (∀ id n saved c s, s.cur = .core c → (s.coreOf c).frame.phase = .acqTas n saved → (s.lock n).claimed = true →
    exec (.spinAcq id) s = .next s)

/-- R115: a lock id outside the bank is fatal for SPIN_ACQ and SPIN_REL, before any state is changed. -/
def Obligations.LockIdOutsideTheBankIsFatal : Prop :=
  ∀ id c s, AtCore c s → NUM_SPINLOCKS ≤ id →
    exec (.spinAcq id) s = .fault (.SpinlockIdOutOfRange (.core c) c id) ∧
    exec (.spinRel id) s = .fault (.SpinlockIdOutOfRange (.core c) c id)

/-- R117, R118, R184: SPIN_ACQ of a held id is SelfDeadlock; SPIN_REL of an id that is not the top guard's is GuardMismatch, with
the top recorded. -/
def Obligations.LockMisuseIsFatal : Prop :=
  (∀ (n : LockId) c s, AtCore c s → (∃ g ∈ (s.coreOf c).held, g.id = n) →
    exec (.spinAcq n.val) s = .fault (.SelfDeadlock (.core c) c n.val)) ∧
  (∀ (n : LockId) c s, AtCore c s → (∀ g, (s.coreOf c).held.head? = some g → g.id ≠ n) →
    exec (.spinRel n.val) s = .fault (.GuardMismatch (.core c) c n.val (s.coreOf c).held.head?))

/-- R118: SPIN_REL of the top guard, run to its end: the lock is free, the guard gone, interrupts as the acquire found
them. -/
def Obligations.SpinRelFreesTheTopGuard : Prop :=
  ∀ (n : LockId) saved rest c s, AtCore c s → (s.coreOf c).held = ⟨n, saved⟩ :: rest →
    (∃ u, exec (.spinRel n.val) s = .next u ∧ (u.coreOf c).held = rest ∧ (u.coreOf c).frame.phase = .relFence n saved ∧
      (u.coreOf c).ie = (s.coreOf c).ie ∧ SameLocks s u) ∧
    ∃ t, execTimes (.spinRel n.val) 4 s = .next t ∧
      (t.lock n).claimed = false ∧ (t.coreOf c).ie = saved ∧ (t.coreOf c).held = rest ∧
      (t.coreOf c).frame = { (s.coreOf c).frame with pc := (s.coreOf c).frame.pc + 1, phase := .ready } ∧
      (∀ n', n' ≠ n → t.lock n' = s.lock n') ∧ t.lkaQ = s.lkaQ ∧ OnlyCoresAndLocks s t ∧ SameOtherCore c s t ∧
      t.coreOf c = { s.coreOf c with
        ie := saved, held := rest, frame := (t.coreOf c).frame, relView := (t.coreOf c).relView }

/-- R116, R118, R119: a critical section and its end give back the interrupt enable the acquire found (so an inner one of two
leaves interrupts masked), the guards and the free lock. -/
def Obligations.AcquireThenReleaseRestores : Prop :=
  ∀ (n : LockId) c s, AtCore c s → (s.lock n).claimed = false → (∀ g ∈ (s.coreOf c).held, g.id ≠ n) →
    ∃ t u, execTimes (.spinAcq n.val) 4 s = .next t ∧ execTimes (.spinRel n.val) 4 t = .next u ∧
      (t.coreOf c).ie = false ∧ (u.coreOf c).ie = (s.coreOf c).ie ∧ (u.coreOf c).held = (s.coreOf c).held ∧
      ∀ n', (u.lock n').claimed = (s.lock n').claimed

/-- R65, R123: mutual exclusion is kept by every step of every agent. -/
def Obligations.EveryStepKeepsMutualExclusion : Prop :=
  ∀ s t, s.MutexInv → step s = .next t → t.MutexInv

/-! ## Ordinary memory and ordering -/

/-- The canonical form of memory and of the host variables is kept by every step. -/
def Obligations.EveryStepKeepsCanonicalData : Prop := ∀ s t, s.DataInv → step s = .next t → t.DataInv

/-- R58, R61: the log of writes stays the history of memory. -/
def Obligations.EveryStepKeepsTheWriteLog : Prop := ∀ s t, s.LogInv → step s = .next t → t.LogInv

/-- R60: with no write of the other core to a byte, performed or announced (log 12), a core reads its own latest write, and the
byte it has just written. -/
def Obligations.OwnWritesAreReadBack : Prop :=
  ∀ c a s, s.LogInv → s.params.inMemory a = true → (∀ e ∈ s.writesOf a, e.core = c) →
    (∀ w ∈ s.ahead, w.addr = a → w.core = c) →
    memRead c a s = some (s.mem.read a, s) ∧
    ∀ v, ∃ t, memWrite c a v s = some t ∧ t.mem.read a = v ∧ memRead c a t = some (v, t) ∧
      ∀ a', a' ≠ a → t.mem.read a' = s.mem.read a'

/-- R62 to R64: core `a` releases lock `n` and core `b` then acquires it: every write ordered before `a`'s release is ordered
before `b`'s next access; a byte that `a` alone has written, and will write to no more, reads as `a` left it. The order is held as
`WriteEv.before` and the views, the model's form of R61 (log 12). -/
def Obligations.ReleaseThenAcquireOrdersWrites : Prop :=
  ∀ (a b : CoreId) (n : LockId) (v w : Bool) (i j : Nat) (s s1 s2 s3 s4 : State),
    (s.coreOf a).frame.phase = .relFence n v →
    exec (.spinRel i) (s.setCur (.core a)) = .next s1 → exec (.spinRel i) s1 = .next s2 →
    (s2.coreOf b).frame.phase = .acqTas n w →
    exec (.spinAcq j) (s2.setCur (.core b)) = .next s3 → exec (.spinAcq j) s3 = .next s4 →
    (∀ e ∈ s.writes, e.seq ≤ (s.coreOf e.core).nWrites → e.before a (s.coreOf a).acqView = true →
      e ∈ s4.writes ∧ e.before b (s4.coreOf b).acqView = true) ∧
    (∀ x, s.LogInv → s.params.inMemory x = true → (∀ e ∈ s.writesOf x, e.core = a) →
      (∀ w ∈ s.ahead, w.addr = x → w.core = b) → memRead b x s4 = some (s.mem.read x, s4))

/-! ## The baud rate -/

/-- R135: SETBAUD at the default parameters succeeds exactly for 1145 ≤ f ≤ 4237288, with the rule's two boundary values. -/
def Obligations.SetbaudAcceptsExactlyItsRange : Prop :=
  (∀ b s, AtEng b .CHECK 0 s → (s.eng b).configured = true → s.params.SPKLEN_OVERFLOW = .truncate →
    ∃ t, execTimes (.setbaud b) 9 s = .next t ∧ (t.eng b).state = .IDLE ∧
      (t.eng b).result =
        if 1145 ≤ (s.eng b).operands.freq.toNat ∧ (s.eng b).operands.freq.toNat ≤ 4237288 then .OK
        else .InvalidBaudrate) ∧
  baudLcnt 1144 = 65559 ∧ REG_MAX < baudLcnt 1144 ∧ baudHold 4237289 = 16 ∧ baudLcnt 4237289 - 2 = 15

/-- R132: an accepted SETBAUD, run to its end, programs the counts R126, R127, R129 and R130 give, in a controller it leaves
enabled, and returns OK; `RON`, the flags, the open transaction and everything else stay. -/
def Obligations.SetbaudProgramsTheTiming : Prop :=
  ∀ b s f period lcnt hcnt hold spk,
    AtEng b .CHECK 0 s → (s.eng b).configured = true → Waiting b s → f = (s.eng b).operands.freq.toNat → f ≠ 0 →
    period = (125000000 + f / 2) / f → lcnt = period * 3 / 5 → hcnt = period - lcnt →
    8 ≤ lcnt → lcnt ≤ 0xFFFF → 8 ≤ hcnt → hcnt ≤ 0xFFFF →
    hold = 125000000 * (if f < 1000000 then 300 else 120) / 1000000000 + 1 → hold ≤ lcnt - 2 →
    spk = max 1 (lcnt / 16) → (s.params.SPKLEN_OVERFLOW = .truncate ∨ spk < 256) →
    ∃ t, execTimes (.setbaud b) 9 s = .next t ∧
      t.ctl b = { s.ctl b with
        en := some true, fsHcnt := some (BitVec.ofNat 16 hcnt), fsLcnt := some (BitVec.ofNat 16 lcnt),
        fsSpklen := some (BitVec.ofNat 8 (spk % 256)), txHold := some (BitVec.ofNat 16 hold),
        con := { (s.ctl b).con with speed := some 2 }, txq := [], rxq := [], inflight := none,
        pendingStop := (s.ctl b).pendingStop || (s.params.DISABLE_ENDS_TRANSACTION && (s.ctl b).busOpen) } ∧
      t.eng b = { s.eng b with state := .IDLE, sub := 0, result := .OK, resultIndex := 0 } ∧
      Returned b (s.eng b).requester .OK 0 t ∧ OnlyBus b s t ∧ SameOtherCore (s.eng b).requester s t ∧
      SameCoreButFrames (s.eng b).requester s t

/-- R16, R126, R128, R130, R131, R133: SETBAUD's CHECK refuses before any register access: `NotConfigured`; `InvalidBaudrate`
with every register, queue and flag as before; `SpklenOverflow` under `refuse`. -/
def Obligations.SetbaudRefusesBeforeAnyWrite : Prop :=
  ∀ b s, AtEng b .CHECK 0 s →
    ((s.eng b).configured = false → exec (.setbaud b) s = .fault (.NotConfigured (.eng b) b .SETBAUD)) ∧
    ((s.eng b).configured = true → badBaud (s.eng b).operands.freq.toNat = true → Waiting b s →
      ∃ t, exec (.setbaud b) s = .next t ∧ Returned b (s.eng b).requester .InvalidBaudrate 0 t ∧
        t.ctl b = s.ctl b ∧ (t.eng b).ron = (s.eng b).ron ∧ OnlyBus b s t ∧ SameOtherCore (s.eng b).requester s t ∧
        SameCoreButFrames (s.eng b).requester s t) ∧
    ((s.eng b).configured = true → badBaud (s.eng b).operands.freq.toNat = false →
      s.params.SPKLEN_OVERFLOW = .refuse → 256 ≤ max 1 (baudLcnt (s.eng b).operands.freq.toNat / 16) →
      exec (.setbaud b) s = .fault (.SpklenOverflow (.eng b) b (s.eng b).operands.freq
        (max 1 (baudLcnt (s.eng b).operands.freq.toNat / 16))))

/-- R138: what an accepted frequency's counts satisfy. -/
def Obligations.AcceptedCountsAreInRange : Prop :=
  ∀ f, badBaud f = false →
    8 ≤ baudLcnt f ∧ baudLcnt f ≤ 0xFFFF ∧ 8 ≤ baudHcnt f ∧ baudHcnt f ≤ 0xFFFF ∧ baudHold f ≤ baudLcnt f - 2 ∧
    baudHcnt f + baudLcnt f = baudPeriod f ∧ baudHcnt f ≤ baudLcnt f ∧ 1 ≤ baudSpk f

/-- R22, R128: a count register that has been written holds a count of at least 8, in every state a step reaches. -/
def Obligations.EveryStepKeepsTheCounts : Prop := ∀ s t, s.CountsInv → step s = .next t → t.CountsInv

/-! ## CONFIGURE -/

/-- R41, R171: CONFIGURE with an accepted frequency, run to its end: the whole controller (its trace is kept), `RON`,
`CONFIGURED` and the result. With a spike length that does not fit, under `SPKLEN_OVERFLOW = refuse`, it ends in `SpklenOverflow`
instead (R130, R132; log 17). The released reset-control bit and the direction after the block reset are the model's (log 31,
log 34). -/
def Obligations.ConfigureProgramsTheController : Prop :=
  ∀ b s f period lcnt hcnt hold spk,
    AtEng b .RESET_BLOCK 0 s → Waiting b s → f = (s.eng b).operands.freq.toNat → f ≠ 0 →
    period = (125000000 + f / 2) / f → lcnt = period * 3 / 5 → hcnt = period - lcnt →
    8 ≤ lcnt → lcnt ≤ 0xFFFF → 8 ≤ hcnt → hcnt ≤ 0xFFFF →
    hold = 125000000 * (if f < 1000000 then 300 else 120) / 1000000000 + 1 → hold ≤ lcnt - 2 →
    spk = max 1 (lcnt / 16) →
    ((s.params.SPKLEN_OVERFLOW = .truncate ∨ spk < 256) →
      ∃ t, execTimes (.configure b) 17 s = .next t ∧
        t.ctl b = { Ctl.reset with
          con := ⟨some true, some 2, some false, some true, some true⟩, en := some true,
          fsHcnt := some (BitVec.ofNat 16 hcnt), fsLcnt := some (BitVec.ofNat 16 lcnt),
          fsSpklen := some (BitVec.ofNat 8 (spk % 256)), txHold := some (BitVec.ofNat 16 hold),
          txTl := some 0, rxTl := some 0, dmaCr := ⟨some true, some true⟩, trace := (s.ctl b).trace } ∧
        t.eng b = { s.eng b with
          state := .IDLE, sub := 0, ron := some false, configured := true, result := .OK, resultIndex := 0 } ∧
        Returned b (s.eng b).requester .OK 0 t ∧ OnlyBus b s t ∧ SameOtherCore (s.eng b).requester s t ∧
        SameCoreButFrames (s.eng b).requester s t) ∧
    (s.params.SPKLEN_OVERFLOW = .refuse → 256 ≤ spk →
      execTimes (.configure b) 9 s = .fault (.SpklenOverflow (.eng b) b (s.eng b).operands.freq spk))

/-- R41, R172: CONFIGURE with a refused frequency: the controller is programmed and left disabled with its timing unwritten.
The released reset-control bit and the direction after the block reset are the model's (log 31, log 34). -/
def Obligations.ConfigureWithABadFrequencyLeavesItDisabled : Prop :=
  ∀ b s, AtEng b .RESET_BLOCK 0 s → Waiting b s → badBaud (s.eng b).operands.freq.toNat = true →
    ∃ t, execTimes (.configure b) 9 s = .next t ∧
      t.ctl b = { Ctl.reset with
        con := ⟨some true, none, some false, some true, some true⟩, en := some false,
        txTl := some 0, rxTl := some 0, dmaCr := ⟨some true, some true⟩, trace := (s.ctl b).trace } ∧
      (t.eng b).ron = some false ∧ (t.eng b).configured = true ∧
      Returned b (s.eng b).requester .InvalidBaudrate 0 t ∧ OnlyBus b s t ∧
      SameOtherCore (s.eng b).requester s t ∧ SameCoreButFrames (s.eng b).requester s t

/-- R33, R106: the block reset, CONFIGURE's first step. -/
def Obligations.BlockResetClearsTheController : Prop :=
  ∀ b s, AtEng b .RESET_BLOCK 0 s → ∃ t, exec (.configure b) s = .next t ∧
    (t.ctl b).busOpen = false ∧ (t.ctl b).pendingStop = false ∧ (t.ctl b).inflight = none ∧ (t.ctl b).txq = [] ∧
    (t.ctl b).rxq = [] ∧ (t.ctl b).abrtSrc = 0 ∧ (t.ctl b).stopDet = false ∧
    (t.ctl b).con = ⟨none, none, none, none, none⟩ ∧ (t.ctl b).tar = none ∧ (t.ctl b).en = none ∧
    (t.ctl b).fsHcnt = none ∧ (t.ctl b).fsLcnt = none ∧ (t.ctl b).fsSpklen = none ∧ (t.ctl b).txHold = none ∧
    (t.ctl b).txTl = none ∧ (t.ctl b).rxTl = none ∧ (t.ctl b).dmaCr = ⟨none, none⟩ ∧
    (t.ctl b).trace = (s.ctl b).trace ∧ MovedTo b .RESET_BLOCK 1 s t ∧ OnlyBus b s t ∧ SameCores s t

/-! ## Requests -/

/-- R14, R69, R73, R142, R179: an `IDLE` engine accepts each of the five requests: the engine context is re-initialised, what is
carried between requests and the last result apart (to its launch values: log 36), and takes the request's operands, and the core
waits for it. -/
def Obligations.AnIdleEngineAcceptsARequest : Prop :=
  ∀ c b s, AtCore c s → (s.eng b).state = .IDLE →
    let o := (s.coreOf c).record
    let fresh := { Engine.reset with
      ron := (s.eng b).ron, configured := (s.eng b).configured, result := (s.eng b).result,
      resultIndex := (s.eng b).resultIndex }
    let accepted := fun (i : Instr) (e : Engine) =>
      ∃ t, exec i s = .next t ∧ t.eng b = { e with requester := c, operands := o, sub := 0 } ∧ t.ctl b = s.ctl b ∧
        t.coreOf c = { s.coreOf c with frame := { (s.coreOf c).frame with phase := .waitEng b } } ∧
        OnlyBus b s t ∧ SameOtherCore c s t ∧ t.oracle = s.oracle
    accepted (.configure b) { fresh with state := .RESET_BLOCK, op := .CONFIGURE } ∧
    accepted (.setbaud b) { fresh with state := .CHECK, op := .SETBAUD } ∧
    (∀ ns a, accepted (.write b ns a) { fresh with
      state := .CHECK, op := .WRITE, addr := a, len := o.wlen, ns := ns, budget := decide (o.tmo ≠ 0) }) ∧
    (∀ ns a, accepted (.read b ns a) { fresh with
      state := .CHECK, op := .READ, addr := a, len := o.rlen, ns := ns, budget := decide (o.tmo ≠ 0) }) ∧
    (∀ a, accepted (.transfer b a) { fresh with
      state := .CHECK, op := .TRANSFER, addr := a, budget := decide (o.tmo ≠ 0) })

/-- R66, R170: a request to an engine that is not `IDLE` is fatal, with both requesters recorded. -/
def Obligations.OverlappingRequestsAreFatal : Prop :=
  ∀ c b s, AtCore c s → (s.eng b).state ≠ .IDLE →
    ∀ i, (i = .configure b ∨ i = .setbaud b ∨ (∃ ns a, i = .write b ns a) ∨ (∃ ns a, i = .read b ns a) ∨
      ∃ a, i = .transfer b a) →
    exec i s = .fault (.ConcurrentUse (.core c) b (s.eng b).requester c)

/-- R44, R58: a request is synchronous: until its engine has returned, its core has no step, which here is a pick that passes
(log 3); then the core takes the result and goes on to its next line, in a step of its own (log 30). -/
def Obligations.ACoreWaitsForItsEngine : Prop :=
  ∀ c b s i, s.cur = .core c →
    (i = .configure b ∨ i = .setbaud b ∨ (∃ ns a, i = .write b ns a) ∨ (∃ ns a, i = .read b ns a) ∨
      ∃ a, i = .transfer b a) →
    ((s.coreOf c).frame.phase = .waitEng b → exec i s = .next s) ∧
    (∀ r idx, (s.coreOf c).frame.phase = .gotResult r idx →
      ∃ t, exec i s = .next t ∧
        t.coreOf c = { s.coreOf c with
          lastResult := r, lastIndex := idx,
          frame := { (s.coreOf c).frame with pc := (s.coreOf c).frame.pc + 1, phase := .ready } } ∧
        OnlyCoresAndLocks s t ∧ SameLocks s t ∧ SameOtherCore c s t)

/-! ## WRITE, READ and TRANSFER -/

/-- R141: the entry checks of WRITE and READ, in their order, before any register access. As a TRANSFER's phase only the last
clause can arise, and it holds there too. -/
def Obligations.EntryChecksInOrder : Prop :=
  ∀ b ns a i sub s, (i = .write b ns a ∨ i = .read b ns a) → AtEng b .CHECK sub s →
    let bad := 0x80 ≤ (s.eng b).addr.toNat ∨ (s.eng b).addr &&& 0x78 = 0 ∨ (s.eng b).addr &&& 0x78 = 0x78
    let ends := fun r => ∃ t, exec i s = .next t ∧ t.ctl b = s.ctl b ∧
      t.eng b = { s.eng b with state := .IDLE, sub := 0, result := r, resultIndex := 0 } ∧
      (Waiting b s → Returned b (s.eng b).requester r 0 t) ∧ OnlyBus b s t ∧
      SameOtherCore (s.eng b).requester s t ∧ SameCoreButFrames (s.eng b).requester s t
    ((s.eng b).configured = false → exec i s = .fault (.NotConfigured (.eng b) b (s.eng b).op)) ∧
    ((s.eng b).op ≠ .TRANSFER → (s.eng b).configured = true → bad → ends .InvalidTargetAddress) ∧
    ((s.eng b).op ≠ .TRANSFER → (s.eng b).configured = true → ¬ bad → (s.eng b).len = 0 → ends .OK) ∧
    ((s.eng b).configured = true → ¬ bad → (s.eng b).len ≠ 0 →
      ∃ t, exec i s = .next t ∧ MovedTo b .SETUP 0 s t ∧ t.ctl b = s.ctl b ∧ OnlyBus b s t ∧ SameCores s t)

/-- R104, R105, R145: SETUP of WRITE and READ, its four statements: the controller is disabled (queues and the in-flight word
flushed), addressed and enabled; the flags and the open transaction stay. -/
def Obligations.SetupProgramsTheAddress : Prop :=
  ∀ b ns a i first s,
    (i = .write b ns a ∧ first = .ISSUE ∨ i = .read b ns a ∧ first = .WAIT_SPACE) → AtEng b .SETUP 0 s →
    ∃ t, execTimes i 4 s = .next t ∧
      t.ctl b = { s.ctl b with
        en := some true, tar := some ((s.eng b).addr.setWidth 7), txq := [], rxq := [], inflight := none,
        pendingStop := (s.ctl b).pendingStop || (s.params.DISABLE_ENDS_TRANSACTION && (s.ctl b).busOpen) } ∧
      t.eng b = { s.eng b with state := first, sub := 0, abort := false, lastabrt := 0, kabrt := 0, k := 0 } ∧
      OnlyBus b s t ∧ SameCores s t

/-- R74, R144, R146: ISSUE of a WRITE: the byte at `wbuf + k` is queued with its framing bits; nothing is stored to memory. -/
def Obligations.WriteQueuesItsByte : Prop :=
  ∀ b ns a s d s1 ron, AtEng b .ISSUE 0 s → (s.eng b).ron = some ron →
    memRead (s.eng b).requester ((s.eng b).operands.wbuf + (s.eng b).k) s = some (d, s1) →
    (s.ctl b).txq.length < s.params.TXQ_DEPTH →
    ∃ t w, execTimes (.write b ns a) 2 s = .next t ∧
      t.ctl b = { s.ctl b with txq := (s.ctl b).txq ++ [w] } ∧
      w.extractLsb' 0 8 = d ∧ w.getLsbD 8 = false ∧
      w.getLsbD 9 = (decide ((s.eng b).k + 1 = (s.eng b).len) && !(s.eng b).ns) ∧
      w.getLsbD 10 = (decide ((s.eng b).k = 0) && ron) ∧
      t.eng b = { s.eng b with state := .WAIT_TX_EMPTY, sub := 0, byte := d } ∧ OnlyBus b s t ∧ SameCores s t

/-- R31, R143, R149: the drain wait of WRITE: it passes exactly when the queue is empty and, with `TX_EMPTY_CTRL = 1`, nothing is
in flight; a poll changes nothing else; without a budget a failed poll is repeated. With `TX_EMPTY_CTRL` unwritten the poll is
fatal (R42). -/
def Obligations.DrainWaitPassesOnceDrained : Prop :=
  ∀ b ns a s, AtEng b .WAIT_TX_EMPTY 0 s →
    (∀ ctrl, (s.ctl b).con.txEmptyCtrl = some ctrl →
      let drained := (s.ctl b).txq = [] ∧ (ctrl = true → (s.ctl b).inflight = none)
      ∃ t, exec (.write b ns a) s = .next t ∧ t.ctl b = s.ctl b ∧ OnlyBus b s t ∧ SameCores s t ∧
        (drained → MovedTo b .CHECK_ABORT 0 s t) ∧
        (¬ drained → (s.eng b).budget = true → MovedTo b .WAIT_TX_EMPTY 1 s t) ∧
        (¬ drained → (s.eng b).budget = false → t = s)) ∧
    ((s.ctl b).con.txEmptyCtrl = none → exec (.write b ns a) s = .fault (.UnwrittenRead (.eng b) b .CON))

/-- R52, R146: CHECK_ABORT of WRITE: one read-to-clear of `ABRT_SRC`; a non-zero value is kept with its byte index and leads to
the stop wait, as the framed-stop byte does; otherwise the next byte or FINISH. -/
def Obligations.CheckAbortReadsAndClears : Prop :=
  ∀ b ns a sub s, AtEng b .CHECK_ABORT sub s →
    let e := s.eng b
    let v := (s.ctl b).abrtSrc
    let e1 := if v = 0 then e else { e with abort := true, lastabrt := v, kabrt := e.k }
    let stops := e1.abort = true ∨ (e.k + 1 = e.len ∧ e.ns = false)
    ∃ t, exec (.write b ns a) s = .next t ∧ t.ctl b = { s.ctl b with abrtSrc := 0 } ∧ OnlyBus b s t ∧ SameCores s t ∧
      (stops → t.eng b = { e1 with state := .WAIT_STOP, sub := 0 }) ∧
      (¬ stops → e.k + 1 < e.len → t.eng b = { e1 with state := .ISSUE, sub := 0, k := e.k + 1 }) ∧
      (¬ stops → ¬ e.k + 1 < e.len → t.eng b = { e1 with state := .FINISH, sub := 0 })

/-- R146, R150, R151: the stop wait of WRITE under both settings of `WRITE_TIMEOUT_POLARITY`, and the clear after it. Under the
legacy setting a call without a budget that finds no stop at a poll returns `Timeout` in its next step. -/
def Obligations.StopWaitUnderBothPolarities : Prop :=
  (∀ b ns a s, AtEng b .WAIT_STOP 0 s →
    let e := s.eng b
    let legacy := s.params.WRITE_TIMEOUT_POLARITY = .legacy_inverted
    ∃ t, exec (.write b ns a) s = .next t ∧ t.ctl b = s.ctl b ∧ OnlyBus b s t ∧ SameCores s t ∧
      ((s.ctl b).stopDet = true → MovedTo b .CLEAR_STOP 0 s t) ∧
      ((s.ctl b).stopDet = false → (e.budget = true ∨ legacy) → MovedTo b .WAIT_STOP 1 s t) ∧
      ((s.ctl b).stopDet = false → e.budget = false → ¬ legacy → t = s) ∧
      ((s.ctl b).stopDet = false → e.budget = false → legacy →
        ∃ u, exec (.write b ns a) t = .next u ∧ (u.eng b).state = .IDLE ∧ (u.eng b).result = .Timeout ∧
          (u.eng b).ron = some e.ns ∧ u.ctl b = s.ctl b)) ∧
  (∀ b ns a sub s, AtEng b .CLEAR_STOP sub s →
    let e := s.eng b
    ∃ t, exec (.write b ns a) s = .next t ∧ t.ctl b = { s.ctl b with stopDet := false } ∧ OnlyBus b s t ∧ SameCores s t ∧
      (e.abort = true ∨ ¬ e.k + 1 < e.len → MovedTo b .FINISH 0 s t) ∧
      (e.abort = false → e.k + 1 < e.len → t.eng b = { e with state := .ISSUE, sub := 0, k := e.k + 1 }))

/-- R165, R166: FINISH of WRITE and READ: `RON` takes the call's `NS`, and the abort kept is classified; the controller is not
touched. -/
def Obligations.FinishClassifiesTheOutcome : Prop :=
  ∀ b ns a i sub s, (i = .write b ns a ∨ i = .read b ns a) → AtEng b .FINISH sub s → (s.eng b).op ≠ .TRANSFER →
    Waiting b s →
    let e := s.eng b
    let out : Result × Nat :=
      if e.abort = false then (.OK, 0)
      else if e.lastabrt = 0 ∨ e.lastabrt.getLsbD 0 = true then (.BusError, 0)
      else (.DataError, e.kabrt)
    ∃ t, exec i s = .next t ∧ Returned b e.requester out.1 out.2 t ∧
      t.eng b = { e with state := .IDLE, sub := 0, ron := some e.ns, result := out.1, resultIndex := out.2 } ∧
      t.ctl b = s.ctl b ∧ OnlyBus b s t ∧ SameOtherCore e.requester s t ∧ SameCoreButFrames e.requester s t

/-- R143, R166, R193: an expired budget ends a WRITE, READ or TRANSFER at once with `Timeout` and `RON = NS`; a draw that has not
expired polls again. -/
def Obligations.AnExpiredBudgetEndsTheCall : Prop :=
  ∀ b ns a i s d s1, s.cur = .eng b → (s.eng b).budget = true → Waiting b s → drawTimeout s = (d, s1) →
    ((i = .write b ns a ∨ (i = .transfer b a ∧ (s.eng b).phase = .write)) ∧ (s.eng b).sub = 1 ∧
        ((s.eng b).state = .WAIT_TX_EMPTY ∨ (s.eng b).state = .WAIT_STOP)) ∨
      ((i = .read b ns a ∨ (i = .transfer b a ∧ (s.eng b).phase = .read)) ∧ (s.eng b).sub = 2 ∧
        (s.eng b).state = .WAIT_RX) →
    ∃ t, exec i s = .next t ∧ t.ctl b = s.ctl b ∧ t.oracle = s1.oracle ∧ OnlyBus b s t ∧
      SameOtherCore (s.eng b).requester s t ∧
      (d = true → Returned b (s.eng b).requester .Timeout 0 t ∧ (t.eng b).ron = some (s.eng b).ns ∧
        SameCoreButFrames (s.eng b).requester s t) ∧
      (d = false → MovedTo b (s.eng b).state 0 s t ∧ SameCores s t)

/-- R144, R156, R158: WAIT_SPACE and ISSUE of a READ: with room in the queue the read command of byte `k` is queued with its
framing bits. -/
def Obligations.ReadQueuesItsCommand : Prop :=
  ∀ b ns a sub s ron, AtEng b .WAIT_SPACE sub s → (s.eng b).ron = some ron →
    (s.ctl b).txq.length < s.params.TXQ_DEPTH →
    ∃ t w, execTimes (.read b ns a) 2 s = .next t ∧
      t.ctl b = { s.ctl b with txq := (s.ctl b).txq ++ [w] } ∧
      w.extractLsb' 0 8 = (0 : Byte) ∧ w.getLsbD 8 = true ∧
      w.getLsbD 9 = (decide ((s.eng b).k + 1 = (s.eng b).len) && !(s.eng b).ns) ∧
      w.getLsbD 10 = (decide ((s.eng b).k = 0) && ron) ∧
      MovedTo b .WAIT_RX 0 s t ∧ OnlyBus b s t ∧ SameCores s t

/-- R157: one iteration of the receive wait of READ: the count first, then the abort (read-to-clear, kept with its byte index),
then the budget. -/
def Obligations.ReceiveWaitTestsCountThenAbortThenBudget : Prop :=
  (∀ b ns a s, AtEng b .WAIT_RX 0 s →
    ∃ t, exec (.read b ns a) s = .next t ∧ t.ctl b = s.ctl b ∧ OnlyBus b s t ∧ SameCores s t ∧
      ((s.ctl b).rxq ≠ [] → MovedTo b .POP 0 s t) ∧ ((s.ctl b).rxq = [] → MovedTo b .WAIT_RX 1 s t)) ∧
  (∀ b ns a s, AtEng b .WAIT_RX 1 s →
    let e := s.eng b
    let v := (s.ctl b).abrtSrc
    ∃ t, exec (.read b ns a) s = .next t ∧ t.ctl b = { s.ctl b with abrtSrc := 0 } ∧ OnlyBus b s t ∧ SameCores s t ∧
      (v ≠ 0 → t.eng b = { e with state := .FINISH, sub := 0, abort := true, lastabrt := v, kabrt := e.k }) ∧
      (v = 0 → e.budget = true → MovedTo b .WAIT_RX 2 s t) ∧
      (v = 0 → e.budget = false → MovedTo b .WAIT_RX 0 s t))

/-- R52, R155, R158: POP of a READ: the oldest received byte goes to `rbuf + k`, and no other byte of memory changes. -/
def Obligations.ReadStoresTheReceivedByte : Prop :=
  ∀ b ns a s d rest, AtEng b .POP 0 s → (s.ctl b).rxq = d :: rest → s.mem.wf = true →
    s.params.inMemory ((s.eng b).operands.rbuf + (s.eng b).k) = true →
    let e := s.eng b
    ∃ t, execTimes (.read b ns a) 2 s = .next t ∧ t.ctl b = { s.ctl b with rxq := rest } ∧
      t.mem.read (e.operands.rbuf + e.k) = d ∧
      (∀ x, x ≠ e.operands.rbuf + e.k → t.mem.read x = s.mem.read x) ∧
      (e.k + 1 < e.len → t.eng b = { e with state := .WAIT_SPACE, sub := 0, k := e.k + 1, byte := d }) ∧
      (¬ e.k + 1 < e.len → t.eng b = { e with state := .FINISH, sub := 0, byte := d }) ∧
      t.coreOf e.requester = { s.coreOf e.requester with nWrites := (s.coreOf e.requester).nWrites + 1 } ∧
      SameOtherBus b s t ∧ SameLocks s t ∧ SameOtherCore e.requester s t ∧ t.params = s.params ∧ t.oracle = s.oracle

/-- R174, R175, R187: TRANSFER's first step: `NotConfigured`, then the address (whatever the lengths), then its first phase, or
OK with no register access. -/
def Obligations.TransferChecksThenStartsAPhase : Prop :=
  ∀ b a s, AtEng b .CHECK 0 s →
    let e := s.eng b
    let bad := 0x80 ≤ e.addr.toNat ∨ e.addr &&& 0x78 = 0 ∨ e.addr &&& 0x78 = 0x78
    let call := fun (ph : Phase) (n : Nat) => ∃ t, exec (.transfer b a) s = .next t ∧ t.ctl b = s.ctl b ∧
      t.eng b = { e with
        phase := ph, state := .CHECK, sub := 1, len := n, k := 0, ns := false, budget := decide (e.operands.tmo ≠ 0) } ∧
      OnlyBus b s t ∧ SameCores s t
    let ends := fun r => ∃ t, exec (.transfer b a) s = .next t ∧ t.ctl b = s.ctl b ∧ (t.eng b).ron = e.ron ∧
      (Waiting b s → Returned b e.requester r 0 t) ∧ OnlyBus b s t ∧ SameOtherCore e.requester s t ∧
      SameCoreButFrames e.requester s t
    (e.configured = false → exec (.transfer b a) s = .fault (.NotConfigured (.eng b) b .TRANSFER)) ∧
    (e.configured = true → bad → ends .InvalidTargetAddress) ∧
    (e.configured = true → ¬ bad → 0 < e.operands.wlen → call .write e.operands.wlen) ∧
    (e.configured = true → ¬ bad → e.operands.wlen = 0 → 0 < e.operands.rlen → call .read e.operands.rlen) ∧
    (e.configured = true → ¬ bad → e.operands.wlen = 0 → e.operands.rlen = 0 → ends .OK)

/-- R84, R174: TRANSFER's phases are the calls WRITE and READ. Its write phase's end starts the read phase when it is OK and there
is something to read, and is the request's result otherwise; its read phase's end is the result. -/
def Obligations.TransferRunsItsCalls : Prop :=
  (∀ b a ns a' s, s.cur = .eng b → ¬ ((s.eng b).state = .CHECK ∧ (s.eng b).sub = 0) →
    ((s.eng b).phase = .write → exec (.transfer b a) s = exec (.write b ns a') s) ∧
    ((s.eng b).phase = .read → exec (.transfer b a) s = exec (.read b ns a') s)) ∧
  (∀ b a sub s, AtEng b .FINISH sub s → (s.eng b).op = .TRANSFER → Waiting b s →
    let e := s.eng b
    ∃ t, exec (.transfer b a) s = .next t ∧ t.ctl b = s.ctl b ∧ (t.eng b).ron = some e.ns ∧ OnlyBus b s t ∧
      SameOtherCore e.requester s t ∧
      (e.phase = .write → e.abort = false → 0 < e.operands.rlen →
        t.eng b = { e with
          ron := some e.ns, phase := .read, state := .CHECK, sub := 1, len := e.operands.rlen, k := 0, ns := false,
          budget := decide (e.operands.tmo ≠ 0) } ∧ SameCores s t) ∧
      (e.phase = .read ∨ e.abort = true ∨ e.operands.rlen = 0 →
        Returned b e.requester e.outcome.1 e.outcome.2 t ∧ SameCoreButFrames e.requester s t))

/-- R56: a buffer byte outside the launch memory has no step: the engine is stuck, and nothing changes. -/
def Obligations.NoStepOutsideTheLaunchMemory : Prop :=
  ∀ b ns a s, s.cur = .eng b →
    ((s.eng b).state = .ISSUE → (s.eng b).sub = 0 →
      s.params.inMemory ((s.eng b).operands.wbuf + (s.eng b).k) = false → exec (.write b ns a) s = .next s) ∧
    ((s.eng b).state = .POP → (s.eng b).sub ≠ 0 →
      s.params.inMemory ((s.eng b).operands.rbuf + (s.eng b).k) = false → exec (.read b ns a) s = .next s)

/-- R109, R146: a whole WRITE of any length `n ≥ 1` on an idle bus, every address and byte acknowledged, in one schedule: the
trace is START, the address, every byte of the buffer in order, STOP; the result is OK. -/
def Obligations.AcknowledgedWriteSendsEveryByte : Prop :=
  ∀ (b : BusId) (s : State) (ds : List Byte) (acks : List Bool),
    let e := s.eng b
    let x := s.ctl b
    e.op = .WRITE → e.state = .CHECK → e.configured = true → badAddress e.addr = false →
    e.len = ds.length → ds ≠ [] → e.ns = false → e.ron ≠ none → Waiting b s → 1 ≤ s.params.TXQ_DEPTH →
    x.con.masterMode = some true → x.con.restartEn = some true → x.con.addr10Master = some false →
    x.con.txEmptyCtrl = some true → x.busOpen = false → x.pendingStop = false → x.stopDet = false → x.abrtSrc = 0 →
    (∀ k d, ds[k]? = some d → s.params.inMemory (e.operands.wbuf + k) = true ∧
      readChoices e.requester (e.operands.wbuf + k) s = [d]) →
    s.oracle.acks = List.replicate (ds.length + 1) true ++ acks →
    ∃ t, runPicks (List.replicate 5 (.eng b) ++
        (List.replicate ds.length [.eng b, .eng b, .load b, .perform b, .eng b, .eng b]).flatten ++
        [.stop b, .eng b, .eng b, .eng b]) s = .next t ∧
      Returned b e.requester .OK 0 t ∧ (t.eng b).ron = some false ∧ (t.ctl b).stopDet = false ∧
      (t.ctl b).trace = x.trace ++ [.START, .ADDR (e.addr.setWidth 7) .W, .ACK] ++
        ds.flatMap (fun d => [.DATA_W d, .ACK]) ++ [.STOP] ∧
      SameOtherBus b s t ∧ SameLocks s t ∧ SameMemory s t

/-- R109, R155, R158: a whole READ of any length `n ≥ 1` on an idle bus, the address acknowledged, in one schedule: every byte
the target drives is in the buffer in order, no other byte of memory changes, and the result is OK. -/
def Obligations.AcknowledgedReadStoresEveryByte : Prop :=
  ∀ (b : BusId) (s : State) (ds bytes : List Byte) (acks : List Bool),
    let e := s.eng b
    let x := s.ctl b
    e.op = .READ → e.state = .CHECK → e.configured = true → badAddress e.addr = false →
    e.len = ds.length → ds ≠ [] → e.ns = false → e.ron ≠ none → Waiting b s → 1 ≤ s.params.TXQ_DEPTH →
    1 ≤ s.params.RXQ_DEPTH → s.mem.wf = true →
    x.con.masterMode = some true → x.con.restartEn = some true → x.con.addr10Master = some false →
    x.busOpen = false → x.pendingStop = false →
    (∀ k, k < ds.length → s.params.inMemory (e.operands.rbuf + k) = true) →
    s.oracle.acks = true :: acks → s.oracle.bytes = ds ++ bytes →
    ∃ t, runPicks (List.replicate 5 (.eng b) ++
        (List.replicate ds.length [.eng b, .eng b, .load b, .perform b, .eng b, .eng b, .eng b]).flatten ++
        [.eng b, .stop b]) s = .next t ∧
      Returned b e.requester .OK 0 t ∧ (t.eng b).ron = some false ∧
      (∀ k d, ds[k]? = some d → t.mem.read (e.operands.rbuf + k) = d) ∧
      (∀ a, a < e.operands.rbuf ∨ e.operands.rbuf + ds.length ≤ a → t.mem.read a = s.mem.read a) ∧
      (t.ctl b).trace = x.trace ++ [.START, .ADDR (e.addr.setWidth 7) .R, .ACK] ++
        ds.dropLast.flatMap (fun d => [.DATA_R d, .ACK]) ++ (ds.getLast?.map fun d => [.DATA_R d, .NACK, .STOP]).getD [] ∧
      SameOtherBus b s t ∧ SameLocks s t

/-! ## The controller -/

/-- R93 to R95, R99, R101: PERFORM of CMD_WRITE, with each framing and each drawn acknowledge. -/
def Obligations.CmdWritePerformsItsCommand : Prop :=
  ∀ b dat stop restart s a, s.cur = .ctl b → (s.ctl b).Runs → (s.ctl b).inflight ≠ none →
    (s.ctl b).tar = some a →
    let x := s.ctl b
    let goesOn := x.busOpen = true ∧ restart = false ∧ x.dir = .W
    let framing := if x.busOpen = false then BusEvent.START else BusEvent.RESTART
    let ack1 := (drawAck s).1
    let ack2 := (drawAck (drawAck s).2).1
    ∃ t, exec (.cmdWrite dat stop restart) s = .next t ∧ t.eng b = s.eng b ∧ OnlyBus b s t ∧ SameCores s t ∧
      (goesOn → ack1 = true → EndedCommand stop .W [.DATA_W dat, .ACK] x (t.ctl b) ∧ (t.ctl b).rxq = x.rxq) ∧
      (goesOn → ack1 = false → AbortedWith 8 [.DATA_W dat, .NACK] x (t.ctl b)) ∧
      (¬ goesOn → ack1 = false → AbortedWith 1 [framing, .ADDR a .W, .NACK] x (t.ctl b)) ∧
      (¬ goesOn → ack1 = true → ack2 = true →
        EndedCommand stop .W [framing, .ADDR a .W, .ACK, .DATA_W dat, .ACK] x (t.ctl b) ∧ (t.ctl b).rxq = x.rxq) ∧
      (¬ goesOn → ack1 = true → ack2 = false →
        AbortedWith 8 [framing, .ADDR a .W, .ACK, .DATA_W dat, .NACK] x (t.ctl b))

/-- R93, R94, R97, R99, R101: PERFORM of CMD_READ, with each framing; the byte is the draw, acknowledged by the master unless the
word carries STOP. -/
def Obligations.CmdReadPerformsItsCommand : Prop :=
  ∀ b dat stop restart s a, s.cur = .ctl b → (s.ctl b).Runs → (s.ctl b).inflight ≠ none →
    (s.ctl b).rxq.length < s.params.RXQ_DEPTH → (s.ctl b).tar = some a →
    let x := s.ctl b
    let goesOn := x.busOpen = true ∧ restart = false ∧ x.dir = .R
    let framing := if x.busOpen = false then BusEvent.START else BusEvent.RESTART
    let ack := (drawAck s).1
    let d := if goesOn then (drawByte s).1 else (drawByte (drawAck s).2).1
    let last : BusEvent := if stop then .NACK else .ACK
    ∃ t, exec (.cmdRead dat stop restart) s = .next t ∧ t.eng b = s.eng b ∧ OnlyBus b s t ∧ SameCores s t ∧
      (goesOn → EndedCommand stop .R [.DATA_R d, last] x (t.ctl b) ∧ (t.ctl b).rxq = x.rxq ++ [d]) ∧
      (¬ goesOn → ack = false → AbortedWith 1 [framing, .ADDR a .R, .NACK] x (t.ctl b)) ∧
      (¬ goesOn → ack = true →
        EndedCommand stop .R [framing, .ADDR a .R, .ACK, .DATA_R d, last] x (t.ctl b) ∧ (t.ctl b).rxq = x.rxq ++ [d])

/-- R89, R103, R107: a controller that is disabled, in a mode the engine never programs, or with nothing in flight performs no
command, and one whose receive queue is full performs no read command. -/
def Obligations.ADisabledControllerPerformsNothing : Prop :=
  ∀ b dat stop restart s, s.cur = .ctl b →
    (¬ (s.ctl b).Runs ∨ (s.ctl b).inflight = none →
      exec (.cmdWrite dat stop restart) s = .next s ∧ exec (.cmdRead dat stop restart) s = .next s) ∧
    (s.params.RXQ_DEPTH ≤ (s.ctl b).rxq.length → exec (.cmdRead dat stop restart) s = .next s)

/-- R92, R100: LOAD takes the oldest command when it may, and only then; STOP completes a pending stop whatever `EN` is. A pick of
either while it is not enabled passes (log 3). -/
def Obligations.LoadAndStopOfTheController : Prop :=
  (∀ b s, let x := s.ctl b
    ∃ t, runPick (.load b) s = .next t ∧ t.eng b = s.eng b ∧ SameOtherBus b s t ∧ SameLocks s t ∧ SameMemory s t ∧
      SameCores s t ∧
      (∀ w r, x.Runs → x.inflight = none → x.pendingStop = false → x.txq = w :: r →
        t.ctl b = { x with txq := r, inflight := some w } ∧
        (x.con.txEmptyCtrl = some true → (t.ctl b).txEmpty = some false)) ∧
      (¬ (x.Runs ∧ x.inflight = none ∧ x.pendingStop = false ∧ x.txq ≠ []) → t.ctl b = x)) ∧
  (∀ b s, let x := s.ctl b
    ∃ t, runPick (.stop b) s = .next t ∧ t.eng b = s.eng b ∧ SameOtherBus b s t ∧ SameLocks s t ∧ SameMemory s t ∧
      SameCores s t ∧
      (x.pendingStop = true →
        t.ctl b = { x with trace := x.trace ++ [.STOP], busOpen := false, pendingStop := false, stopDet := true }) ∧
      (x.pendingStop = false → t.ctl b = x))

/-- R101, R102: OTHER_ABORT aborts the command in flight with the value `draw_abort()` answers, which is not zero, and the extra
bits drawn after it, when the parameter allows it. A pick of it while it is not enabled passes (log 3). -/
def Obligations.OtherAbortNeedsACommandInFlight : Prop :=
  ∀ b s, let x := s.ctl b
    let enabled := x.Runs ∧ x.inflight ≠ none ∧ s.params.OTHER_ABORTS = true
    let v := (drawAbort s).1.value
    let extra := (drawExtra (drawAbort s).2).1
    ∃ t, runPick (.otherAbort b) s = .next t ∧ t.eng b = s.eng b ∧ SameOtherBus b s t ∧ SameLocks s t ∧
      SameMemory s t ∧ SameCores s t ∧
      (enabled → v ≠ 0 ∧ AbortedWith v [] x (t.ctl b) ∧ (t.ctl b).abrtSrc = x.abrtSrc ||| v ||| extra ∧
        (t.ctl b).abrtSrc ≠ 0) ∧
      (¬ enabled → t.ctl b = x)

/-! ## The whole machine -/

/-- R207 (with R36 to R38, R41): the launch state: the values the spec gives, and every invariant, for every launch with memory
in canonical form and FIFOs of at least one entry. The invariants are the model's: canonical form log 10, the log of writes log 12,
nothing at the bank's own port log 22. -/
def Obligations.EveryLaunchMeetsTheInvariants : Prop :=
  ∀ l : Launch, let s := State.launch l
    (∀ b, (s.eng b).state = .IDLE ∧ (s.eng b).configured = false ∧ (s.eng b).ron = none ∧
      (s.ctl b).con = ⟨none, none, none, none, none⟩ ∧ (s.ctl b).tar = none ∧ (s.ctl b).en = none ∧
      (s.ctl b).fsHcnt = none ∧ (s.ctl b).fsLcnt = none ∧ (s.ctl b).fsSpklen = none ∧ (s.ctl b).txHold = none ∧
      (s.ctl b).txTl = none ∧ (s.ctl b).rxTl = none ∧ (s.ctl b).dmaCr = ⟨none, none⟩ ∧ (s.ctl b).txq = [] ∧
      (s.ctl b).rxq = [] ∧ (s.ctl b).abrtSrc = 0 ∧ (s.ctl b).stopDet = false ∧ (s.ctl b).busOpen = false ∧
      (s.ctl b).inflight = none ∧ (s.ctl b).pendingStop = false ∧ (s.ctl b).trace = []) ∧
    (∀ n, (s.lock n).claimed = l.INITIAL_LOCKS[n]) ∧ s.mem = l.mem ∧
    (∀ c, (s.coreOf c).held = [] ∧ (s.coreOf c).ie = l.ie.get c ∧ (s.coreOf c).frame = ⟨l.scripts.get c, 0, .ready⟩) ∧
    (l.mem.wf = true → l.params.wf = true →
      s.DataInv ∧ s.LogInv ∧ s.MutexInv ∧ s.FifoInv ∧ s.AddrInv ∧ s.CountsInv ∧ s.WrittenInv)

/-- R177: no step of one instance reads or writes the state of the other: replacing the other instance as a whole replaces it in
the outcome and changes nothing else, fatals included. -/
def Obligations.InstancesAreIsolated : Prop :=
  ∀ b b' p s z, b' ≠ b → p ∈ Pick.eng b :: ctlPicks b →
    runPick p (s.setBus b' z) = mapNext (fun t => t.setBus b' z) (runPick p s)

/-- R16, R35, R40: no step changes a parameter, clears `CONFIGURED`, or takes an event out of a bus trace; and only the bus's own
controller adds one. -/
def Obligations.ParametersConfiguredAndTraceOnlyGrow : Prop :=
  ∀ s t, step s = .next t →
    t.params = s.params ∧
    ∀ b, ((s.eng b).configured = true → (t.eng b).configured = true) ∧
      (∃ ev, (t.ctl b).trace = (s.ctl b).trace ++ ev ∧ (ev ≠ [] → s.pick = .perform b ∨ s.pick = .stop b))

/-- R29, R219: a bit of `ABRT_SRC` stays until the engine reads the register or CONFIGURE resets the block. -/
def Obligations.AbortBitsStayUntilReadOrReset : Prop :=
  ∀ s t b j, step s = .next t → (s.ctl b).abrtSrc.getLsbD j = true →
    (t.ctl b).abrtSrc.getLsbD j = true ∨
    (s.pick = .eng b ∧ ((s.eng b).state = .CHECK_ABORT ∨ ((s.eng b).state = .WAIT_RX ∧ (s.eng b).sub = 1) ∨
      (s.eng b).state = .RESET_BLOCK))

/-- R27, R28, R160, R168: the FIFOs stay inside their capacity, and the two FIFO faults are unreachable. -/
def Obligations.FifoFaultsAreUnreachable : Prop :=
  ∀ s, s.FifoInv →
    (∀ t, step s = .next t → t.FifoInv) ∧ (∀ ag b w, step s ≠ .fault (.TxOverflow ag b w)) ∧
    (∀ ag b, step s ≠ .fault (.RxUnderflow ag b))

/-- R42: what the engine and the controller read has been written: the fault of an unwritten read is unreachable. -/
def Obligations.NothingUnwrittenIsRead : Prop :=
  ∀ s, s.WrittenInv →
    (∀ t, step s = .next t → t.WrittenInv) ∧ ∀ ag b r, step s ≠ .fault (.UnwrittenRead ag b r)

/-- R108, R141: only legal target addresses reach the target register and the bus. -/
def Obligations.OnlyLegalAddressesReachTheBus : Prop := ∀ s t, s.AddrInv → step s = .next t → t.AddrInv

/-- R191: no handler starts on a core with interrupts masked (the pick passes, log 3); with them enabled the handler the oracle
answers starts, and the core resumes where it was when the handler has run to its end (frames nest, and the return is a step of its
own: log 27). -/
def Obligations.AMaskedCoreTakesNoHandler : Prop :=
  ∀ c s,
    ((s.coreOf c).ie = false → runPick (.irq c) s = .next (s.setCur (.core c))) ∧
    ((s.coreOf c).ie = true → (s.coreOf c).halted = false →
      ∃ t, runPick (.irq c) s = .next t ∧
        t.coreOf c = { s.coreOf c with
          frame := ⟨(drawHandler s).1, 0, .ready⟩, saved := (s.coreOf c).frame :: (s.coreOf c).saved } ∧
        SameBuses s t ∧ SameLocks s t ∧ SameMemory s t ∧ SameOtherCore c s t) ∧
    (∀ f r, (s.coreOf c).line = none → (s.coreOf c).halted = false → (s.coreOf c).saved = f :: r →
      runPick (.core c) s = .next (s.setCore c { s.coreOf c with frame := f, saved := r }))

/-- R91, R150: under `BusProgress(i)` a pending stop does not stay pending for ever. -/
def Obligations.UnderBusProgressAPendingStopEnds : Prop :=
  ∀ b r n, IsRun r → BusProgress b r → ((r n).ctl b).pendingStop = true →
    ∃ m, n ≤ m ∧ ((r m).ctl b).pendingStop = false
end

