-- ==== Sys2Proof/Laws/Baud.lean ====
section
/-! SUPPORT. What the range checks of the baud-rate programmer say of a frequency. -/

namespace Sys2Proof.Machine

open Sys2Proof.Config

/-- R126, R128, R131: an accepted frequency. -/
theorem badBaud_eq_false (f : Nat) : badBaud f = false ↔
    f ≠ 0 ∧ 8 ≤ baudLcnt f ∧ baudLcnt f ≤ 65535 ∧ 8 ≤ baudHcnt f ∧ baudHcnt f ≤ 65535 ∧
      baudHold f ≤ baudLcnt f - 2 := by
  rw [← Bool.not_eq_true]
  simp only [badBaud, Bool.or_eq_true, decide_eq_true_eq]
  unfold CNT_MIN REG_MAX
  omega

/-- R126: the period of a frequency, without division. -/
theorem le_baudPeriod {f : Nat} (k : Nat) (hf : 0 < f) : k ≤ baudPeriod f ↔ k * f ≤ 125000000 + f / 2 :=
  Nat.le_div_iff_mul_le hf

theorem baudHcnt_add_baudLcnt (f : Nat) : baudHcnt f + baudLcnt f = baudPeriod f := by
  unfold baudHcnt baudLcnt
  omega

end Sys2Proof.Machine
end

