-- ==== Sys2Proof/Laws/Memory.lean ====
section
/-! SUPPORT. The laws of the canonical lists: a write keeps the form, reads back its own value, and leaves every other key;
equal contents are equal lists. -/

namespace Sys2Proof.Machine

theorem sparseWf_mono {V : Type} [DecidableEq V] (d : V) {lo lo' : Nat} (h : lo' ≤ lo) :
    ∀ {m : List (Nat × V)}, sparseWf d lo m = true → sparseWf d lo' m = true
  | [], _ => rfl
  | (k, v) :: r, hw => by
    simp only [sparseWf, Bool.and_eq_true, decide_eq_true_eq] at hw ⊢
    exact ⟨⟨by omega, hw.1.2⟩, hw.2⟩

theorem sparseGet_below {V : Type} [DecidableEq V] (d : V) {a : Nat} :
    ∀ {lo : Nat} {m : List (Nat × V)}, sparseWf d lo m = true → a < lo → sparseGet d m a = d
  | _, [], _, _ => rfl
  | lo, (k, v) :: r, hw, ha => by
    simp only [sparseWf, Bool.and_eq_true, decide_eq_true_eq] at hw
    have hk : ¬ k = a := by omega
    simp only [sparseGet, hk, if_false]
    exact sparseGet_below d hw.2 (by omega)

theorem sparseWf_set {V : Type} [DecidableEq V] (d : V) (a : Nat) (v : V) :
    ∀ {lo : Nat} {m : List (Nat × V)}, sparseWf d lo m = true → lo ≤ a → sparseWf d lo (sparseSet d m a v) = true
  | lo, [], _, ha => by
    simp only [sparseSet]; split <;> simp [sparseWf, *]
  | lo, (k, w) :: r, hw, ha => by
    simp only [sparseWf, Bool.and_eq_true, decide_eq_true_eq] at hw
    obtain ⟨⟨hk, hwd⟩, hr⟩ := hw
    simp only [sparseSet]
    split
    · split
      · simp [sparseWf, *]
      · simp only [sparseWf, Bool.and_eq_true, decide_eq_true_eq]
        exact ⟨⟨ha, ‹_›⟩, ⟨by omega, hwd⟩, hr⟩
    · split
      · subst a
        split
        · exact sparseWf_mono d (by omega) hr
        · simp [sparseWf, *]
      · simp only [sparseWf, Bool.and_eq_true, decide_eq_true_eq]
        exact ⟨⟨hk, hwd⟩, sparseWf_set d a v hr (by omega)⟩

theorem sparseGet_set {V : Type} [DecidableEq V] (d : V) (a : Nat) (v : V) :
    ∀ {lo : Nat} {m : List (Nat × V)}, sparseWf d lo m = true → sparseGet d (sparseSet d m a v) a = v
  | _, [], _ => by
    simp only [sparseSet]; split <;> simp [sparseGet, *]
  | lo, (k, w) :: r, hw => by
    simp only [sparseWf, Bool.and_eq_true, decide_eq_true_eq] at hw
    simp only [sparseSet]
    split
    · split
      · subst v
        have hk : ¬ k = a := by omega
        simp only [sparseGet, hk, if_false]
        exact sparseGet_below d hw.2 (by omega)
      · simp [sparseGet]
    · split
      · subst a
        split
        · subst v; exact sparseGet_below d hw.2 (by omega)
        · simp [sparseGet]
      · have hk : ¬ k = a := fun e => ‹¬ a = k› e.symm
        simp only [sparseGet, hk, if_false]
        exact sparseGet_set d a v hw.2

theorem sparseGet_set_ne {V : Type} [DecidableEq V] (d : V) {a a' : Nat} (v : V) (h : a' ≠ a) :
    ∀ (m : List (Nat × V)), sparseGet d (sparseSet d m a v) a' = sparseGet d m a'
  | [] => by
    have h' : ¬ a = a' := fun e => h e.symm
    simp only [sparseSet]; split <;> simp [sparseGet, h']
  | (k, w) :: r => by
    have h' : ¬ a = a' := fun e => h e.symm
    simp only [sparseSet]
    split
    · split <;> simp [sparseGet, h']
    · split
      · subst a
        split <;> simp [sparseGet, h']
      · simp only [sparseGet]
        split
        · rfl
        · exact sparseGet_set_ne d v h r

/-- Two canonical lists with the same contents are the same list. -/
theorem sparse_ext {V : Type} [DecidableEq V] (d : V) :
    ∀ {lo : Nat} {m m' : List (Nat × V)}, sparseWf d lo m = true → sparseWf d lo m' = true →
      (∀ a, sparseGet d m a = sparseGet d m' a) → m = m'
  | _, [], [], _, _, _ => rfl
  | lo, [], (k, v) :: r, _, hw, h => by
    simp only [sparseWf, Bool.and_eq_true, decide_eq_true_eq] at hw
    have := h k
    simp only [sparseGet, if_true] at this
    exact absurd this.symm hw.1.2
  | lo, (k, v) :: r, [], hw, _, h => by
    simp only [sparseWf, Bool.and_eq_true, decide_eq_true_eq] at hw
    have := h k
    simp only [sparseGet, if_true] at this
    exact absurd this hw.1.2
  | lo, (k, v) :: r, (k', v') :: r', hw, hw', h => by
    simp only [sparseWf, Bool.and_eq_true, decide_eq_true_eq] at hw hw'
    have hkk : k = k' := by
      rcases Nat.lt_trichotomy k k' with hlt | heq | hgt
      · have := h k
        simp only [sparseGet, if_true] at this
        have hne : ¬ k' = k := by omega
        simp only [hne, if_false] at this
        rw [sparseGet_below d hw'.2 (by omega)] at this
        exact absurd this hw.1.2
      · exact heq
      · have := h k'
        simp only [sparseGet, if_true] at this
        have hne : ¬ k = k' := by omega
        simp only [hne, if_false] at this
        rw [sparseGet_below d hw.2 (by omega)] at this
        exact absurd this.symm hw'.1.2
    subst hkk
    have hv : v = v' := by have := h k; simpa only [sparseGet, if_true] using this
    subst hv
    have hr : r = r' := by
      refine sparse_ext d hw.2 hw'.2 fun a => ?_
      by_cases ha : k = a
      · subst ha
        rw [sparseGet_below d hw.2 (by omega), sparseGet_below d hw'.2 (by omega)]
      · have := h a
        simpa only [sparseGet, ha, if_false] using this
    rw [hr]

/-! ## Memory -/

theorem Memory.wf_nil : Memory.wf [] = true := rfl
/-- The write of memory, the one operation that changes it, keeps the canonical form. -/
theorem Memory.wf_write {m : Memory} (h : m.wf = true) (a : Nat) (v : Byte) : (m.write a v).wf = true :=
  sparseWf_set 0 a v h (Nat.zero_le a)
theorem Memory.read_write {m : Memory} (h : m.wf = true) (a : Nat) (v : Byte) : (m.write a v).read a = v :=
  sparseGet_set 0 a v h
theorem Memory.read_write_ne (m : Memory) {a a' : Nat} (v : Byte) (h : a' ≠ a) : (m.write a v).read a' = m.read a' :=
  sparseGet_set_ne 0 v h m
theorem Memory.ext_read {m m' : Memory} (h : m.wf = true) (h' : m'.wf = true) (hr : ∀ a, m.read a = m'.read a) : m = m' :=
  sparse_ext 0 h h' hr
@[simp] theorem Memory.read_nil (a : Nat) : Memory.read [] a = 0 := rfl

/-! ## Host variables -/

theorem varsWf_set {m : List (Nat × Nat)} (h : varsWf m = true) (r v : Nat) : varsWf (varSet m r v) = true :=
  sparseWf_set 0 r v h (Nat.zero_le r)
theorem varGet_set {m : List (Nat × Nat)} (h : varsWf m = true) (r v : Nat) : varGet (varSet m r v) r = v :=
  sparseGet_set 0 r v h
theorem varGet_set_ne (m : List (Nat × Nat)) {r r' : Nat} (v : Nat) (h : r' ≠ r) : varGet (varSet m r v) r' = varGet m r' :=
  sparseGet_set_ne 0 v h m

end Sys2Proof.Machine
end

