-- ==== Sys2Proof/Laws/State.lean ====
section
/-! SUPPORT. The lemmas of the state's parts: what each part reads after each update, the order in which updates are
normalised, and that two states with equal parts are equal. -/

namespace Sys2Proof

/-! ## Pairs -/

@[simp] theorem PerBus.get_set {α : Type} (p : PerBus α) (b : BusId) (x : α) : (p.set b x).get b = x := by cases b <;> rfl
theorem PerBus.get_set_ne {α : Type} (p : PerBus α) {b b' : BusId} (x : α) (h : b' ≠ b) :
    (p.set b x).get b' = p.get b' := by cases b <;> cases b' <;> first | rfl | exact absurd rfl h
@[simp] theorem PerBus.set_set {α : Type} (p : PerBus α) (b : BusId) (x y : α) : (p.set b x).set b y = p.set b y := by
  cases b <;> rfl
@[simp] theorem PerBus.set_get {α : Type} (p : PerBus α) (b : BusId) : p.set b (p.get b) = p := by cases b <;> rfl
theorem PerBus.ext_get {α : Type} {p q : PerBus α} (h : ∀ b, p.get b = q.get b) : p = q := by
  cases p; cases q; have h0 := h .i2c0; have h1 := h .i2c1; simp only [PerBus.get] at h0 h1; rw [h0, h1]
@[simp] theorem PerCore.get_set {α : Type} (p : PerCore α) (c : CoreId) (x : α) : (p.set c x).get c = x := by
  cases c <;> rfl
theorem PerCore.get_set_ne {α : Type} (p : PerCore α) {c c' : CoreId} (x : α) (h : c' ≠ c) :
    (p.set c x).get c' = p.get c' := by cases c <;> cases c' <;> first | rfl | exact absurd rfl h
@[simp] theorem PerCore.set_set {α : Type} (p : PerCore α) (c : CoreId) (x y : α) : (p.set c x).set c y = p.set c y := by
  cases c <;> rfl
@[simp] theorem PerCore.set_get {α : Type} (p : PerCore α) (c : CoreId) : p.set c (p.get c) = p := by cases c <;> rfl
theorem PerCore.ext_get {α : Type} {p q : PerCore α} (h : ∀ c, p.get c = q.get c) : p = q := by
  cases p; cases q; have h0 := h .core0; have h1 := h .core1; simp only [PerCore.get] at h0 h1; rw [h0, h1]

theorem BusId.ne_cases {b b' : BusId} (h : b' ≠ b) : (b = .i2c0 ∧ b' = .i2c1) ∨ (b = .i2c1 ∧ b' = .i2c0) := by
  cases b <;> cases b' <;> simp_all

/-- R7: as many instances as `N_BUS`. -/
theorem BusId.number_bijective : Function.Bijective BusId.number := by
  refine ⟨fun a b h => ?_, fun n => ?_⟩
  · cases a <;> cases b <;> first | rfl | exact absurd h (by decide)
  · fin_cases n
    · exact ⟨.i2c0, rfl⟩
    · exact ⟨.i2c1, rfl⟩
/-- R7: as many cores as `N_CORES`. -/
theorem CoreId.number_bijective : Function.Bijective CoreId.number := by
  refine ⟨fun a b h => ?_, fun n => ?_⟩
  · cases a <;> cases b <;> first | rfl | exact absurd h (by decide)
  · fin_cases n
    · exact ⟨.core0, rfl⟩
    · exact ⟨.core1, rfl⟩

namespace Machine

/-! ## Reading a part after an update -/

@[simp] theorem State.params_setEng (s : State) (b : BusId) (e : Engine) : (s.setEng b e).params = s.params := rfl
@[simp] theorem State.locks_setEng (s : State) (b : BusId) (e : Engine) : (s.setEng b e).locks = s.locks := rfl
@[simp] theorem State.lkaQ_setEng (s : State) (b : BusId) (e : Engine) : (s.setEng b e).lkaQ = s.lkaQ := rfl
@[simp] theorem State.core_setEng (s : State) (b : BusId) (e : Engine) : (s.setEng b e).core = s.core := rfl
@[simp] theorem State.mem_setEng (s : State) (b : BusId) (e : Engine) : (s.setEng b e).mem = s.mem := rfl
@[simp] theorem State.writes_setEng (s : State) (b : BusId) (e : Engine) : (s.setEng b e).writes = s.writes := rfl
@[simp] theorem State.ahead_setEng (s : State) (b : BusId) (e : Engine) : (s.setEng b e).ahead = s.ahead := rfl
@[simp] theorem State.oracle_setEng (s : State) (b : BusId) (e : Engine) : (s.setEng b e).oracle = s.oracle := rfl
@[simp] theorem State.cur_setEng (s : State) (b : BusId) (e : Engine) : (s.setEng b e).cur = s.cur := rfl
@[simp] theorem State.coreOf_setEng (s : State) (b : BusId) (e : Engine) (c' : CoreId) : (s.setEng b e).coreOf c' = s.coreOf c' := rfl
@[simp] theorem State.lock_setEng (s : State) (b : BusId) (e : Engine) (n' : LockId) : (s.setEng b e).lock n' = s.lock n' := rfl

@[simp] theorem State.params_setCtl (s : State) (b : BusId) (x : Ctl) : (s.setCtl b x).params = s.params := rfl
@[simp] theorem State.locks_setCtl (s : State) (b : BusId) (x : Ctl) : (s.setCtl b x).locks = s.locks := rfl
@[simp] theorem State.lkaQ_setCtl (s : State) (b : BusId) (x : Ctl) : (s.setCtl b x).lkaQ = s.lkaQ := rfl
@[simp] theorem State.core_setCtl (s : State) (b : BusId) (x : Ctl) : (s.setCtl b x).core = s.core := rfl
@[simp] theorem State.mem_setCtl (s : State) (b : BusId) (x : Ctl) : (s.setCtl b x).mem = s.mem := rfl
@[simp] theorem State.writes_setCtl (s : State) (b : BusId) (x : Ctl) : (s.setCtl b x).writes = s.writes := rfl
@[simp] theorem State.ahead_setCtl (s : State) (b : BusId) (x : Ctl) : (s.setCtl b x).ahead = s.ahead := rfl
@[simp] theorem State.oracle_setCtl (s : State) (b : BusId) (x : Ctl) : (s.setCtl b x).oracle = s.oracle := rfl
@[simp] theorem State.cur_setCtl (s : State) (b : BusId) (x : Ctl) : (s.setCtl b x).cur = s.cur := rfl
@[simp] theorem State.coreOf_setCtl (s : State) (b : BusId) (x : Ctl) (c' : CoreId) : (s.setCtl b x).coreOf c' = s.coreOf c' := rfl
@[simp] theorem State.lock_setCtl (s : State) (b : BusId) (x : Ctl) (n' : LockId) : (s.setCtl b x).lock n' = s.lock n' := rfl

@[simp] theorem State.params_setCore (s : State) (c : CoreId) (k : Core) : (s.setCore c k).params = s.params := rfl
@[simp] theorem State.locks_setCore (s : State) (c : CoreId) (k : Core) : (s.setCore c k).locks = s.locks := rfl
@[simp] theorem State.lkaQ_setCore (s : State) (c : CoreId) (k : Core) : (s.setCore c k).lkaQ = s.lkaQ := rfl
@[simp] theorem State.mem_setCore (s : State) (c : CoreId) (k : Core) : (s.setCore c k).mem = s.mem := rfl
@[simp] theorem State.writes_setCore (s : State) (c : CoreId) (k : Core) : (s.setCore c k).writes = s.writes := rfl
@[simp] theorem State.ahead_setCore (s : State) (c : CoreId) (k : Core) : (s.setCore c k).ahead = s.ahead := rfl
@[simp] theorem State.oracle_setCore (s : State) (c : CoreId) (k : Core) : (s.setCore c k).oracle = s.oracle := rfl
@[simp] theorem State.cur_setCore (s : State) (c : CoreId) (k : Core) : (s.setCore c k).cur = s.cur := rfl
@[simp] theorem State.bus_setCore (s : State) (c : CoreId) (k : Core) : (s.setCore c k).bus = s.bus := rfl
@[simp] theorem State.eng_setCore (s : State) (c : CoreId) (k : Core) (b' : BusId) : (s.setCore c k).eng b' = s.eng b' := rfl
@[simp] theorem State.ctl_setCore (s : State) (c : CoreId) (k : Core) (b' : BusId) : (s.setCore c k).ctl b' = s.ctl b' := rfl
@[simp] theorem State.lock_setCore (s : State) (c : CoreId) (k : Core) (n' : LockId) : (s.setCore c k).lock n' = s.lock n' := rfl

@[simp] theorem State.params_setLock (s : State) (n : LockId) (l : LockReg) : (s.setLock n l).params = s.params := rfl
@[simp] theorem State.lkaQ_setLock (s : State) (n : LockId) (l : LockReg) : (s.setLock n l).lkaQ = s.lkaQ := rfl
@[simp] theorem State.core_setLock (s : State) (n : LockId) (l : LockReg) : (s.setLock n l).core = s.core := rfl
@[simp] theorem State.mem_setLock (s : State) (n : LockId) (l : LockReg) : (s.setLock n l).mem = s.mem := rfl
@[simp] theorem State.writes_setLock (s : State) (n : LockId) (l : LockReg) : (s.setLock n l).writes = s.writes := rfl
@[simp] theorem State.ahead_setLock (s : State) (n : LockId) (l : LockReg) : (s.setLock n l).ahead = s.ahead := rfl
@[simp] theorem State.oracle_setLock (s : State) (n : LockId) (l : LockReg) : (s.setLock n l).oracle = s.oracle := rfl
@[simp] theorem State.cur_setLock (s : State) (n : LockId) (l : LockReg) : (s.setLock n l).cur = s.cur := rfl
@[simp] theorem State.bus_setLock (s : State) (n : LockId) (l : LockReg) : (s.setLock n l).bus = s.bus := rfl
@[simp] theorem State.eng_setLock (s : State) (n : LockId) (l : LockReg) (b' : BusId) : (s.setLock n l).eng b' = s.eng b' := rfl
@[simp] theorem State.ctl_setLock (s : State) (n : LockId) (l : LockReg) (b' : BusId) : (s.setLock n l).ctl b' = s.ctl b' := rfl
@[simp] theorem State.coreOf_setLock (s : State) (n : LockId) (l : LockReg) (c' : CoreId) : (s.setLock n l).coreOf c' = s.coreOf c' := rfl

@[simp] theorem State.params_setMem (s : State) (m : Memory) (w : List WriteEv) : (s.setMem m w).params = s.params := rfl
@[simp] theorem State.locks_setMem (s : State) (m : Memory) (w : List WriteEv) : (s.setMem m w).locks = s.locks := rfl
@[simp] theorem State.lkaQ_setMem (s : State) (m : Memory) (w : List WriteEv) : (s.setMem m w).lkaQ = s.lkaQ := rfl
@[simp] theorem State.core_setMem (s : State) (m : Memory) (w : List WriteEv) : (s.setMem m w).core = s.core := rfl
@[simp] theorem State.ahead_setMem (s : State) (m : Memory) (w : List WriteEv) : (s.setMem m w).ahead = s.ahead := rfl
@[simp] theorem State.oracle_setMem (s : State) (m : Memory) (w : List WriteEv) : (s.setMem m w).oracle = s.oracle := rfl
@[simp] theorem State.cur_setMem (s : State) (m : Memory) (w : List WriteEv) : (s.setMem m w).cur = s.cur := rfl
@[simp] theorem State.bus_setMem (s : State) (m : Memory) (w : List WriteEv) : (s.setMem m w).bus = s.bus := rfl
@[simp] theorem State.eng_setMem (s : State) (m : Memory) (w : List WriteEv) (b' : BusId) : (s.setMem m w).eng b' = s.eng b' := rfl
@[simp] theorem State.ctl_setMem (s : State) (m : Memory) (w : List WriteEv) (b' : BusId) : (s.setMem m w).ctl b' = s.ctl b' := rfl
@[simp] theorem State.coreOf_setMem (s : State) (m : Memory) (w : List WriteEv) (c' : CoreId) : (s.setMem m w).coreOf c' = s.coreOf c' := rfl
@[simp] theorem State.lock_setMem (s : State) (m : Memory) (w : List WriteEv) (n' : LockId) : (s.setMem m w).lock n' = s.lock n' := rfl
@[simp] theorem State.mem_setMem (s : State) (m : Memory) (w : List WriteEv) : (s.setMem m w).mem = m := rfl
@[simp] theorem State.writes_setMem (s : State) (m : Memory) (w : List WriteEv) : (s.setMem m w).writes = w := rfl

@[simp] theorem State.params_setAhead (s : State) (d : List Ahead) : (s.setAhead d).params = s.params := rfl
@[simp] theorem State.locks_setAhead (s : State) (d : List Ahead) : (s.setAhead d).locks = s.locks := rfl
@[simp] theorem State.lkaQ_setAhead (s : State) (d : List Ahead) : (s.setAhead d).lkaQ = s.lkaQ := rfl
@[simp] theorem State.core_setAhead (s : State) (d : List Ahead) : (s.setAhead d).core = s.core := rfl
@[simp] theorem State.mem_setAhead (s : State) (d : List Ahead) : (s.setAhead d).mem = s.mem := rfl
@[simp] theorem State.writes_setAhead (s : State) (d : List Ahead) : (s.setAhead d).writes = s.writes := rfl
@[simp] theorem State.oracle_setAhead (s : State) (d : List Ahead) : (s.setAhead d).oracle = s.oracle := rfl
@[simp] theorem State.cur_setAhead (s : State) (d : List Ahead) : (s.setAhead d).cur = s.cur := rfl
@[simp] theorem State.bus_setAhead (s : State) (d : List Ahead) : (s.setAhead d).bus = s.bus := rfl
@[simp] theorem State.eng_setAhead (s : State) (d : List Ahead) (b' : BusId) : (s.setAhead d).eng b' = s.eng b' := rfl
@[simp] theorem State.ctl_setAhead (s : State) (d : List Ahead) (b' : BusId) : (s.setAhead d).ctl b' = s.ctl b' := rfl
@[simp] theorem State.coreOf_setAhead (s : State) (d : List Ahead) (c' : CoreId) : (s.setAhead d).coreOf c' = s.coreOf c' := rfl
@[simp] theorem State.lock_setAhead (s : State) (d : List Ahead) (n' : LockId) : (s.setAhead d).lock n' = s.lock n' := rfl
@[simp] theorem State.ahead_setAhead (s : State) (d : List Ahead) : (s.setAhead d).ahead = d := rfl

@[simp] theorem State.params_setLkaQ (s : State) (q : List (CoreId × LkaWord)) : (s.setLkaQ q).params = s.params := rfl
@[simp] theorem State.locks_setLkaQ (s : State) (q : List (CoreId × LkaWord)) : (s.setLkaQ q).locks = s.locks := rfl
@[simp] theorem State.core_setLkaQ (s : State) (q : List (CoreId × LkaWord)) : (s.setLkaQ q).core = s.core := rfl
@[simp] theorem State.mem_setLkaQ (s : State) (q : List (CoreId × LkaWord)) : (s.setLkaQ q).mem = s.mem := rfl
@[simp] theorem State.writes_setLkaQ (s : State) (q : List (CoreId × LkaWord)) : (s.setLkaQ q).writes = s.writes := rfl
@[simp] theorem State.ahead_setLkaQ (s : State) (q : List (CoreId × LkaWord)) : (s.setLkaQ q).ahead = s.ahead := rfl
@[simp] theorem State.oracle_setLkaQ (s : State) (q : List (CoreId × LkaWord)) : (s.setLkaQ q).oracle = s.oracle := rfl
@[simp] theorem State.cur_setLkaQ (s : State) (q : List (CoreId × LkaWord)) : (s.setLkaQ q).cur = s.cur := rfl
@[simp] theorem State.bus_setLkaQ (s : State) (q : List (CoreId × LkaWord)) : (s.setLkaQ q).bus = s.bus := rfl
@[simp] theorem State.eng_setLkaQ (s : State) (q : List (CoreId × LkaWord)) (b' : BusId) : (s.setLkaQ q).eng b' = s.eng b' := rfl
@[simp] theorem State.ctl_setLkaQ (s : State) (q : List (CoreId × LkaWord)) (b' : BusId) : (s.setLkaQ q).ctl b' = s.ctl b' := rfl
@[simp] theorem State.coreOf_setLkaQ (s : State) (q : List (CoreId × LkaWord)) (c' : CoreId) : (s.setLkaQ q).coreOf c' = s.coreOf c' := rfl
@[simp] theorem State.lock_setLkaQ (s : State) (q : List (CoreId × LkaWord)) (n' : LockId) : (s.setLkaQ q).lock n' = s.lock n' := rfl
@[simp] theorem State.lkaQ_setLkaQ (s : State) (q : List (CoreId × LkaWord)) : (s.setLkaQ q).lkaQ = q := rfl

@[simp] theorem State.params_setOracle (s : State) (o : Oracle) : (s.setOracle o).params = s.params := rfl
@[simp] theorem State.locks_setOracle (s : State) (o : Oracle) : (s.setOracle o).locks = s.locks := rfl
@[simp] theorem State.lkaQ_setOracle (s : State) (o : Oracle) : (s.setOracle o).lkaQ = s.lkaQ := rfl
@[simp] theorem State.core_setOracle (s : State) (o : Oracle) : (s.setOracle o).core = s.core := rfl
@[simp] theorem State.mem_setOracle (s : State) (o : Oracle) : (s.setOracle o).mem = s.mem := rfl
@[simp] theorem State.writes_setOracle (s : State) (o : Oracle) : (s.setOracle o).writes = s.writes := rfl
@[simp] theorem State.ahead_setOracle (s : State) (o : Oracle) : (s.setOracle o).ahead = s.ahead := rfl
@[simp] theorem State.cur_setOracle (s : State) (o : Oracle) : (s.setOracle o).cur = s.cur := rfl
@[simp] theorem State.bus_setOracle (s : State) (o : Oracle) : (s.setOracle o).bus = s.bus := rfl
@[simp] theorem State.eng_setOracle (s : State) (o : Oracle) (b' : BusId) : (s.setOracle o).eng b' = s.eng b' := rfl
@[simp] theorem State.ctl_setOracle (s : State) (o : Oracle) (b' : BusId) : (s.setOracle o).ctl b' = s.ctl b' := rfl
@[simp] theorem State.coreOf_setOracle (s : State) (o : Oracle) (c' : CoreId) : (s.setOracle o).coreOf c' = s.coreOf c' := rfl
@[simp] theorem State.lock_setOracle (s : State) (o : Oracle) (n' : LockId) : (s.setOracle o).lock n' = s.lock n' := rfl
@[simp] theorem State.oracle_setOracle (s : State) (o : Oracle) : (s.setOracle o).oracle = o := rfl

@[simp] theorem State.params_setCur (s : State) (a : Agent) : (s.setCur a).params = s.params := rfl
@[simp] theorem State.locks_setCur (s : State) (a : Agent) : (s.setCur a).locks = s.locks := rfl
@[simp] theorem State.lkaQ_setCur (s : State) (a : Agent) : (s.setCur a).lkaQ = s.lkaQ := rfl
@[simp] theorem State.core_setCur (s : State) (a : Agent) : (s.setCur a).core = s.core := rfl
@[simp] theorem State.mem_setCur (s : State) (a : Agent) : (s.setCur a).mem = s.mem := rfl
@[simp] theorem State.writes_setCur (s : State) (a : Agent) : (s.setCur a).writes = s.writes := rfl
@[simp] theorem State.ahead_setCur (s : State) (a : Agent) : (s.setCur a).ahead = s.ahead := rfl
@[simp] theorem State.oracle_setCur (s : State) (a : Agent) : (s.setCur a).oracle = s.oracle := rfl
@[simp] theorem State.bus_setCur (s : State) (a : Agent) : (s.setCur a).bus = s.bus := rfl
@[simp] theorem State.eng_setCur (s : State) (a : Agent) (b' : BusId) : (s.setCur a).eng b' = s.eng b' := rfl
@[simp] theorem State.ctl_setCur (s : State) (a : Agent) (b' : BusId) : (s.setCur a).ctl b' = s.ctl b' := rfl
@[simp] theorem State.coreOf_setCur (s : State) (a : Agent) (c' : CoreId) : (s.setCur a).coreOf c' = s.coreOf c' := rfl
@[simp] theorem State.lock_setCur (s : State) (a : Agent) (n' : LockId) : (s.setCur a).lock n' = s.lock n' := rfl
@[simp] theorem State.cur_setCur (s : State) (a : Agent) : (s.setCur a).cur = a := rfl

@[simp] theorem State.eng_setEng (s : State) (b : BusId) (e : Engine) : (s.setEng b e).eng b = e := by cases b <;> rfl
theorem State.eng_setEng_ne (s : State) {b b' : BusId} (e : Engine) (h : b' ≠ b) : (s.setEng b e).eng b' = s.eng b' := by
  rcases BusId.ne_cases h with ⟨rfl, rfl⟩ | ⟨rfl, rfl⟩ <;> rfl
@[simp] theorem State.ctl_setEng (s : State) (b b' : BusId) (e : Engine) : (s.setEng b e).ctl b' = s.ctl b' := by
  cases b <;> cases b' <;> rfl
@[simp] theorem State.ctl_setCtl (s : State) (b : BusId) (x : Ctl) : (s.setCtl b x).ctl b = x := by cases b <;> rfl
theorem State.ctl_setCtl_ne (s : State) {b b' : BusId} (x : Ctl) (h : b' ≠ b) : (s.setCtl b x).ctl b' = s.ctl b' := by
  rcases BusId.ne_cases h with ⟨rfl, rfl⟩ | ⟨rfl, rfl⟩ <;> rfl
@[simp] theorem State.eng_setCtl (s : State) (b b' : BusId) (x : Ctl) : (s.setCtl b x).eng b' = s.eng b' := by
  cases b <;> cases b' <;> rfl
@[simp] theorem State.coreOf_setCore (s : State) (c : CoreId) (k : Core) : (s.setCore c k).coreOf c = k := by
  cases c <;> rfl
theorem State.coreOf_setCore_ne (s : State) {c c' : CoreId} (k : Core) (h : c' ≠ c) :
    (s.setCore c k).coreOf c' = s.coreOf c' := by cases c <;> cases c' <;> first | rfl | exact absurd rfl h
@[simp] theorem State.lock_setLock (s : State) (n : LockId) (l : LockReg) : (s.setLock n l).lock n = l := by
  simp [State.lock, State.setLock]
theorem State.lock_setLock_ne (s : State) {n n' : LockId} (l : LockReg) (h : n' ≠ n) :
    (s.setLock n l).lock n' = s.lock n' := by
  have : n.val ≠ n'.val := fun e => h (Fin.ext e.symm)
  simp [State.lock, State.setLock, this]

/-! ## Updates of one part twice, and of different parts: the outermost update is the engine's core, then the engine, then the
controller, then the lock, then the inputs -/

@[simp] theorem State.setEng_setEng (s : State) (b : BusId) (e : Engine) (e2 : Engine) : (s.setEng b e).setEng b e2 = s.setEng b e2 := by cases b <;> rfl
@[simp] theorem State.setCtl_setCtl (s : State) (b : BusId) (x : Ctl) (x2 : Ctl) : (s.setCtl b x).setCtl b x2 = s.setCtl b x2 := by cases b <;> rfl
@[simp] theorem State.setCore_setCore (s : State) (c : CoreId) (k : Core) (k2 : Core) : (s.setCore c k).setCore c k2 = s.setCore c k2 := by cases c <;> rfl
@[simp] theorem State.setLock_setLock (s : State) (n : LockId) (l : LockReg) (l2 : LockReg) : (s.setLock n l).setLock n l2 = s.setLock n l2 := by simp [State.setLock]
@[simp] theorem State.setMem_setMem (s : State) (m : Memory) (w : List WriteEv) (m2 : Memory) (w2 : List WriteEv) : (s.setMem m w).setMem m2 w2 = s.setMem m2 w2 := rfl
@[simp] theorem State.setAhead_setAhead (s : State) (d : List Ahead) (d2 : List Ahead) : (s.setAhead d).setAhead d2 = s.setAhead d2 := rfl
@[simp] theorem State.setLkaQ_setLkaQ (s : State) (q : List (CoreId × LkaWord)) (q2 : List (CoreId × LkaWord)) : (s.setLkaQ q).setLkaQ q2 = s.setLkaQ q2 := rfl
@[simp] theorem State.setOracle_setOracle (s : State) (o : Oracle) (o2 : Oracle) : (s.setOracle o).setOracle o2 = s.setOracle o2 := rfl
@[simp] theorem State.setCur_setCur (s : State) (a : Agent) (a2 : Agent) : (s.setCur a).setCur a2 = s.setCur a2 := rfl
@[simp] theorem State.setOracle_setCur (s : State) (o : Oracle) (a : Agent) :
    (s.setOracle o).setCur a = (s.setCur a).setOracle o := rfl
@[simp] theorem State.setLkaQ_setCur (s : State) (q : List (CoreId × LkaWord)) (a : Agent) :
    (s.setLkaQ q).setCur a = (s.setCur a).setLkaQ q := rfl
@[simp] theorem State.setMem_setCur (s : State) (m : Memory) (w : List WriteEv) (a : Agent) :
    (s.setMem m w).setCur a = (s.setCur a).setMem m w := rfl
@[simp] theorem State.setAhead_setCur (s : State) (d : List Ahead) (a : Agent) :
    (s.setAhead d).setCur a = (s.setCur a).setAhead d := rfl
@[simp] theorem State.setLock_setCur (s : State) (n : LockId) (l : LockReg) (a : Agent) :
    (s.setLock n l).setCur a = (s.setCur a).setLock n l := rfl
@[simp] theorem State.setCtl_setCur (s : State) (b : BusId) (x : Ctl) (a : Agent) :
    (s.setCtl b x).setCur a = (s.setCur a).setCtl b x := rfl
@[simp] theorem State.setEng_setCur (s : State) (b : BusId) (e : Engine) (a : Agent) :
    (s.setEng b e).setCur a = (s.setCur a).setEng b e := rfl
@[simp] theorem State.setCore_setCur (s : State) (c : CoreId) (k : Core) (a : Agent) :
    (s.setCore c k).setCur a = (s.setCur a).setCore c k := rfl
@[simp] theorem State.setLkaQ_setOracle (s : State) (q : List (CoreId × LkaWord)) (o : Oracle) :
    (s.setLkaQ q).setOracle o = (s.setOracle o).setLkaQ q := rfl
@[simp] theorem State.setMem_setOracle (s : State) (m : Memory) (w : List WriteEv) (o : Oracle) :
    (s.setMem m w).setOracle o = (s.setOracle o).setMem m w := rfl
@[simp] theorem State.setAhead_setOracle (s : State) (d : List Ahead) (o : Oracle) :
    (s.setAhead d).setOracle o = (s.setOracle o).setAhead d := rfl
@[simp] theorem State.setLock_setOracle (s : State) (n : LockId) (l : LockReg) (o : Oracle) :
    (s.setLock n l).setOracle o = (s.setOracle o).setLock n l := rfl
@[simp] theorem State.setCtl_setOracle (s : State) (b : BusId) (x : Ctl) (o : Oracle) :
    (s.setCtl b x).setOracle o = (s.setOracle o).setCtl b x := rfl
@[simp] theorem State.setEng_setOracle (s : State) (b : BusId) (e : Engine) (o : Oracle) :
    (s.setEng b e).setOracle o = (s.setOracle o).setEng b e := rfl
@[simp] theorem State.setCore_setOracle (s : State) (c : CoreId) (k : Core) (o : Oracle) :
    (s.setCore c k).setOracle o = (s.setOracle o).setCore c k := rfl
@[simp] theorem State.setMem_setLkaQ (s : State) (m : Memory) (w : List WriteEv) (q : List (CoreId × LkaWord)) :
    (s.setMem m w).setLkaQ q = (s.setLkaQ q).setMem m w := rfl
@[simp] theorem State.setAhead_setLkaQ (s : State) (d : List Ahead) (q : List (CoreId × LkaWord)) :
    (s.setAhead d).setLkaQ q = (s.setLkaQ q).setAhead d := rfl
@[simp] theorem State.setLock_setLkaQ (s : State) (n : LockId) (l : LockReg) (q : List (CoreId × LkaWord)) :
    (s.setLock n l).setLkaQ q = (s.setLkaQ q).setLock n l := rfl
@[simp] theorem State.setCtl_setLkaQ (s : State) (b : BusId) (x : Ctl) (q : List (CoreId × LkaWord)) :
    (s.setCtl b x).setLkaQ q = (s.setLkaQ q).setCtl b x := rfl
@[simp] theorem State.setEng_setLkaQ (s : State) (b : BusId) (e : Engine) (q : List (CoreId × LkaWord)) :
    (s.setEng b e).setLkaQ q = (s.setLkaQ q).setEng b e := rfl
@[simp] theorem State.setCore_setLkaQ (s : State) (c : CoreId) (k : Core) (q : List (CoreId × LkaWord)) :
    (s.setCore c k).setLkaQ q = (s.setLkaQ q).setCore c k := rfl
@[simp] theorem State.setAhead_setMem (s : State) (d : List Ahead) (m : Memory) (w : List WriteEv) :
    (s.setAhead d).setMem m w = (s.setMem m w).setAhead d := rfl
@[simp] theorem State.setLock_setMem (s : State) (n : LockId) (l : LockReg) (m : Memory) (w : List WriteEv) :
    (s.setLock n l).setMem m w = (s.setMem m w).setLock n l := rfl
@[simp] theorem State.setCtl_setMem (s : State) (b : BusId) (x : Ctl) (m : Memory) (w : List WriteEv) :
    (s.setCtl b x).setMem m w = (s.setMem m w).setCtl b x := rfl
@[simp] theorem State.setEng_setMem (s : State) (b : BusId) (e : Engine) (m : Memory) (w : List WriteEv) :
    (s.setEng b e).setMem m w = (s.setMem m w).setEng b e := rfl
@[simp] theorem State.setCore_setMem (s : State) (c : CoreId) (k : Core) (m : Memory) (w : List WriteEv) :
    (s.setCore c k).setMem m w = (s.setMem m w).setCore c k := rfl
@[simp] theorem State.setLock_setAhead (s : State) (n : LockId) (l : LockReg) (d : List Ahead) :
    (s.setLock n l).setAhead d = (s.setAhead d).setLock n l := rfl
@[simp] theorem State.setCtl_setAhead (s : State) (b : BusId) (x : Ctl) (d : List Ahead) :
    (s.setCtl b x).setAhead d = (s.setAhead d).setCtl b x := rfl
@[simp] theorem State.setEng_setAhead (s : State) (b : BusId) (e : Engine) (d : List Ahead) :
    (s.setEng b e).setAhead d = (s.setAhead d).setEng b e := rfl
@[simp] theorem State.setCore_setAhead (s : State) (c : CoreId) (k : Core) (d : List Ahead) :
    (s.setCore c k).setAhead d = (s.setAhead d).setCore c k := rfl
@[simp] theorem State.setCtl_setLock (s : State) (b : BusId) (x : Ctl) (n : LockId) (l : LockReg) :
    (s.setCtl b x).setLock n l = (s.setLock n l).setCtl b x := rfl
@[simp] theorem State.setEng_setLock (s : State) (b : BusId) (e : Engine) (n : LockId) (l : LockReg) :
    (s.setEng b e).setLock n l = (s.setLock n l).setEng b e := rfl
@[simp] theorem State.setCore_setLock (s : State) (c : CoreId) (k : Core) (n : LockId) (l : LockReg) :
    (s.setCore c k).setLock n l = (s.setLock n l).setCore c k := rfl
@[simp] theorem State.setEng_setCtl (s : State) (b b' : BusId) (e : Engine) (x : Ctl) :
    (s.setEng b e).setCtl b' x = (s.setCtl b' x).setEng b e := by cases b <;> cases b' <;> rfl
@[simp] theorem State.setCore_setCtl (s : State) (c : CoreId) (k : Core) (b : BusId) (x : Ctl) :
    (s.setCore c k).setCtl b x = (s.setCtl b x).setCore c k := rfl
@[simp] theorem State.setCore_setEng (s : State) (c : CoreId) (k : Core) (b : BusId) (e : Engine) :
    (s.setCore c k).setEng b e = (s.setEng b e).setCore c k := rfl

@[simp] theorem State.setEng_eng (s : State) (b : BusId) : s.setEng b (s.eng b) = s := by
  cases s; cases b <;> rfl
@[simp] theorem State.setCtl_ctl (s : State) (b : BusId) : s.setCtl b (s.ctl b) = s := by
  cases s; cases b <;> rfl
@[simp] theorem State.setCore_coreOf (s : State) (c : CoreId) : s.setCore c (s.coreOf c) = s := by
  cases s; cases c <;> rfl

/-- Two states whose parts are equal are equal. -/
theorem State.ext_parts {s t : State} (hp : s.params = t.params) (he : ∀ b, s.eng b = t.eng b)
    (hc : ∀ b, s.ctl b = t.ctl b) (hl : ∀ n, s.lock n = t.lock n) (hq : s.lkaQ = t.lkaQ)
    (hk : ∀ c, s.coreOf c = t.coreOf c) (hm : s.mem = t.mem) (hw : s.writes = t.writes) (hd : s.ahead = t.ahead)
    (ho : s.oracle = t.oracle) (ha : s.cur = t.cur) : s = t := by
  have hb : s.bus = t.bus := PerBus.ext_get fun b => by
    have h1 := he b; have h2 := hc b
    simp only [State.eng, State.ctl] at h1 h2
    cases h3 : s.bus.get b; cases h4 : t.bus.get b; simp_all
  have hco : s.core = t.core := PerCore.ext_get hk
  have hlo : s.locks = t.locks := by
    apply Vector.ext; intro i hi; exact hl ⟨i, hi⟩
  cases s; cases t; simp_all

/-! ## The launch state -/

@[simp] theorem State.eng_launch (l : Launch) (b : BusId) : (State.launch l).eng b = .reset := by cases b <;> rfl
@[simp] theorem State.ctl_launch (l : Launch) (b : BusId) : (State.launch l).ctl b = .reset := by cases b <;> rfl
theorem State.coreOf_launch (l : Launch) (c : CoreId) :
    (State.launch l).coreOf c = .launch (l.ie.get c) (l.scripts.get c) := by cases c <;> rfl
theorem State.lock_launch (l : Launch) (n : LockId) : (State.launch l).lock n = ⟨l.INITIAL_LOCKS[n], .zero⟩ := by
  simp [State.lock, State.launch]

end Machine
end Sys2Proof
end

