-- ==== Sys2Proof/Laws/Ops.lean ====
section
/-! SUPPORT. One law for each shared operation, saying once what it can do; what a step of the machine can be. -/

namespace Sys2Proof.Machine

open Sys2Proof.Config

/-! ## Draws: a draw changes the inputs alone, and depends on them alone -/

theorem drawPick_snd (s : State) : ∃ o, (drawPick s).2 = s.setOracle o := by
  unfold drawPick; split <;> exact ⟨_, rfl⟩
theorem drawPick_congr {s t : State} (h : s.oracle = t.oracle) :
    (drawPick s).1 = (drawPick t).1 ∧ (drawPick s).2.oracle = (drawPick t).2.oracle := by
  unfold drawPick; rw [h]; split <;> exact ⟨rfl, rfl⟩
theorem drawAck_snd (s : State) : ∃ o, (drawAck s).2 = s.setOracle o := by
  unfold drawAck; split <;> exact ⟨_, rfl⟩
theorem drawAck_congr {s t : State} (h : s.oracle = t.oracle) :
    (drawAck s).1 = (drawAck t).1 ∧ (drawAck s).2.oracle = (drawAck t).2.oracle := by
  unfold drawAck; rw [h]; split <;> exact ⟨rfl, rfl⟩
theorem drawByte_snd (s : State) : ∃ o, (drawByte s).2 = s.setOracle o := by
  unfold drawByte; split <;> exact ⟨_, rfl⟩
theorem drawByte_congr {s t : State} (h : s.oracle = t.oracle) :
    (drawByte s).1 = (drawByte t).1 ∧ (drawByte s).2.oracle = (drawByte t).2.oracle := by
  unfold drawByte; rw [h]; split <;> exact ⟨rfl, rfl⟩
theorem drawAbort_snd (s : State) : ∃ o, (drawAbort s).2 = s.setOracle o := by
  unfold drawAbort; split <;> exact ⟨_, rfl⟩
theorem drawAbort_congr {s t : State} (h : s.oracle = t.oracle) :
    (drawAbort s).1 = (drawAbort t).1 ∧ (drawAbort s).2.oracle = (drawAbort t).2.oracle := by
  unfold drawAbort; rw [h]; split <;> exact ⟨rfl, rfl⟩
theorem drawExtra_snd (s : State) : ∃ o, (drawExtra s).2 = s.setOracle o := by
  unfold drawExtra; split <;> exact ⟨_, rfl⟩
theorem drawExtra_congr {s t : State} (h : s.oracle = t.oracle) :
    (drawExtra s).1 = (drawExtra t).1 ∧ (drawExtra s).2.oracle = (drawExtra t).2.oracle := by
  unfold drawExtra; rw [h]; split <;> exact ⟨rfl, rfl⟩
theorem drawTimeout_snd (s : State) : ∃ o, (drawTimeout s).2 = s.setOracle o := by
  unfold drawTimeout; split <;> exact ⟨_, rfl⟩
theorem drawTimeout_congr {s t : State} (h : s.oracle = t.oracle) :
    (drawTimeout s).1 = (drawTimeout t).1 ∧ (drawTimeout s).2.oracle = (drawTimeout t).2.oracle := by
  unfold drawTimeout; rw [h]; split <;> exact ⟨rfl, rfl⟩
theorem drawChoice_snd (s : State) : ∃ o, (drawChoice s).2 = s.setOracle o := by
  unfold drawChoice; split <;> exact ⟨_, rfl⟩
theorem drawChoice_congr {s t : State} (h : s.oracle = t.oracle) :
    (drawChoice s).1 = (drawChoice t).1 ∧ (drawChoice s).2.oracle = (drawChoice t).2.oracle := by
  unfold drawChoice; rw [h]; split <;> exact ⟨rfl, rfl⟩
theorem drawHandler_snd (s : State) : ∃ o, (drawHandler s).2 = s.setOracle o := by
  unfold drawHandler; split <;> exact ⟨_, rfl⟩
theorem drawHandler_congr {s t : State} (h : s.oracle = t.oracle) :
    (drawHandler s).1 = (drawHandler t).1 ∧ (drawHandler s).2.oracle = (drawHandler t).2.oracle := by
  unfold drawHandler; rw [h]; split <;> exact ⟨rfl, rfl⟩
theorem drawAck_cons {s : State} {x} {r} (h : s.oracle.acks = x :: r) :
    drawAck s = (x, s.setOracle { s.oracle with acks := r }) := by unfold drawAck; rw [h]
theorem drawByte_cons {s : State} {x} {r} (h : s.oracle.bytes = x :: r) :
    drawByte s = (x, s.setOracle { s.oracle with bytes := r }) := by unfold drawByte; rw [h]
theorem drawExtra_cons {s : State} {x} {r} (h : s.oracle.extras = x :: r) :
    drawExtra s = (x, s.setOracle { s.oracle with extras := r }) := by unfold drawExtra; rw [h]
theorem drawTimeout_cons {s : State} {x} {r} (h : s.oracle.timeouts = x :: r) :
    drawTimeout s = (x, s.setOracle { s.oracle with timeouts := r }) := by unfold drawTimeout; rw [h]
theorem drawPick_cons {s : State} {x} {r} (h : s.oracle.sched = x :: r) :
    drawPick s = (x, s.setOracle { s.oracle with sched := r }) := by unfold drawPick; rw [h]
theorem drawAbort_cons {s : State} {x} {r} (h : s.oracle.aborts = x :: r) :
    drawAbort s = (x, s.setOracle { s.oracle with aborts := r }) := by unfold drawAbort; rw [h]
theorem drawChoice_cons {s : State} {x} {r} (h : s.oracle.choices = x :: r) :
    drawChoice s = (x, s.setOracle { s.oracle with choices := r }) := by unfold drawChoice; rw [h]
theorem drawHandler_cons {s : State} {x} {r} (h : s.oracle.handlers = x :: r) :
    drawHandler s = (x, s.setOracle { s.oracle with handlers := r }) := by unfold drawHandler; rw [h]

/-- A drawn abort source is not zero (R90). -/
theorem AbortDraw.value_ne_zero (d : AbortDraw) : d.value ≠ 0 := by
  intro h
  have hb : (d.more ||| ((1 : Word) <<< d.bit.val)).getLsbD d.bit.val = true := by
    have key : ∀ i : Fin 32, ((1 : Word) <<< i.val).getLsbD i.val = true := by decide
    rw [BitVec.getLsbD_or, key, Bool.or_true]
  have h' : d.more ||| ((1 : Word) <<< d.bit.val) = 0 := h
  rw [h'] at hb
  simp at hb

/-! ## Small operations -/

theorem goto_eq (b : BusId) (st : EngState) (sub : Nat) (s : State) :
    goto b st sub s = s.setEng b { s.eng b with state := st, sub := sub } := rfl
theorem disable_eq (b : BusId) (s : State) :
    disable b s = s.setCtl b { s.ctl b with
      en := some false, txq := [], rxq := [], inflight := none,
      pendingStop := (s.ctl b).pendingStop || (s.params.DISABLE_ENDS_TRANSACTION && (s.ctl b).busOpen) } := rfl
theorem enable_eq (b : BusId) (s : State) : enable b s = s.setCtl b { s.ctl b with en := some true } := rfl
theorem nextLine_eq (c : CoreId) (s : State) :
    nextLine c s = s.setCore c { s.coreOf c with
      frame := { (s.coreOf c).frame with pc := (s.coreOf c).frame.pc + 1, phase := .ready } } := rfl
theorem setPhase_eq (c : CoreId) (p : CorePhase) (s : State) :
    setPhase c p s = s.setCore c { s.coreOf c with frame := { (s.coreOf c).frame with phase := p } } := rfl
theorem returnResult_eq (b : BusId) (r : Result) (idx : Nat) (s : State) :
    returnResult b r idx s =
      (s.setEng b { s.eng b with state := .IDLE, sub := 0, result := r, resultIndex := idx }).setCore
        (s.eng b).requester ((s.coreOf (s.eng b).requester).deliver b r idx) := by
  simp [returnResult]

/-- A request whose engine returns has the result at the top frame. -/
theorem Core.deliver_phase {k : Core} {b : BusId} (h : k.frame.phase = .waitEng b) (r : Result) (idx : Nat) :
    (k.deliver b r idx).frame.phase = .gotResult r idx := by
  simp [Core.deliver, Frame.deliver, h]

/-- A returned result is seen by the waiting core, and by nothing else of it. -/
theorem returnResult_spec (b : BusId) (r : Result) (idx : Nat) (s : State) :
    (returnResult b r idx s).eng b =
        { s.eng b with state := .IDLE, sub := 0, result := r, resultIndex := idx } ∧
      (returnResult b r idx s).ctl b = s.ctl b ∧ OnlyBus b s (returnResult b r idx s) ∧
      SameOtherCore (s.eng b).requester s (returnResult b r idx s) ∧
      SameCoreButFrames (s.eng b).requester s (returnResult b r idx s) ∧
      (returnResult b r idx s).oracle = s.oracle ∧
      (Waiting b s → Returned b (s.eng b).requester r idx (returnResult b r idx s)) := by
  rw [returnResult_eq]
  refine ⟨by simp, by simp, ⟨fun b' h => ⟨?_, by simp⟩, ⟨by simp, by simp⟩, ⟨by simp, by simp⟩, by simp, by simp⟩,
    fun c' h => ?_,
    ⟨((s.coreOf (s.eng b).requester).deliver b r idx).frame, ((s.coreOf (s.eng b).requester).deliver b r idx).saved, ?_⟩,
    by simp, fun h => ⟨by simp, by simp, by simp, ?_⟩⟩
  · simp [State.eng_setEng_ne _ _ h]
  · simp [State.coreOf_setCore_ne _ _ h]
  · simp only [State.coreOf_setCore]; rfl
  · simp only [State.coreOf_setCore]; exact Core.deliver_phase h r idx

/-- An engine that stands at the statement already does not move. -/
theorem goto_self {b : BusId} {st : EngState} {sub : Nat} {s : State} (h : (s.eng b).state = st)
    (h' : (s.eng b).sub = sub) : goto b st sub s = s := by
  subst h; subst h'
  exact State.setEng_eng s b

/-- The fields of a command word (R71). -/
theorem cmdw_fields (restart stop cmd : Bool) (dat : Byte) :
    (cmdw restart stop cmd dat).extractLsb' 0 8 = dat ∧ (cmdw restart stop cmd dat).getLsbD 8 = cmd ∧
      (cmdw restart stop cmd dat).getLsbD 9 = stop ∧ (cmdw restart stop cmd dat).getLsbD 10 = restart := by
  revert dat; cases restart <;> cases stop <;> cases cmd <;> decide

/-- The address check by its three conditions (R141). -/
theorem badAddress_iff (a : Byte) :
    badAddress a = true ↔ (0x80 ≤ a.toNat ∨ a &&& 0x78 = 0 ∨ a &&& 0x78 = 0x78) := by
  simp [badAddress, or_assoc]

/-! ## Frames -/

theorem OnlyBus.refl (b : BusId) (s : State) : OnlyBus b s s :=
  ⟨fun _ _ => ⟨rfl, rfl⟩, ⟨fun _ => rfl, rfl⟩, ⟨fun _ => rfl, rfl⟩, rfl, rfl⟩
theorem OnlyBus.trans {b : BusId} {s t u : State} (h : OnlyBus b s t) (g : OnlyBus b t u) : OnlyBus b s u :=
  ⟨fun b' h' => ⟨(g.1 b' h').1.trans (h.1 b' h').1, (g.1 b' h').2.trans (h.1 b' h').2⟩,
    ⟨fun n => (g.2.1.1 n).trans (h.2.1.1 n), g.2.1.2.trans h.2.1.2⟩,
    ⟨fun a => (g.2.2.1.1 a).trans (h.2.2.1.1 a), g.2.2.1.2.trans h.2.2.1.2⟩,
    g.2.2.2.1.trans h.2.2.2.1, g.2.2.2.2.trans h.2.2.2.2⟩
theorem OnlyBus.setEng {b : BusId} {s t : State} (h : OnlyBus b s t) (e : Engine) : OnlyBus b s (t.setEng b e) :=
  h.trans ⟨fun b' h' => ⟨by simp [State.eng_setEng_ne _ _ h'], by simp⟩, ⟨by simp, by simp⟩, ⟨by simp, by simp⟩,
    by simp, by simp⟩
theorem OnlyBus.setCtl {b : BusId} {s t : State} (h : OnlyBus b s t) (x : Ctl) : OnlyBus b s (t.setCtl b x) :=
  h.trans ⟨fun b' h' => ⟨by simp, by simp [State.ctl_setCtl_ne _ _ h']⟩, ⟨by simp, by simp⟩, ⟨by simp, by simp⟩,
    by simp, by simp⟩
theorem OnlyBus.setCore {b : BusId} {s t : State} (h : OnlyBus b s t) (c : CoreId) (k : Core) :
    OnlyBus b s (t.setCore c k) :=
  h.trans ⟨fun b' _ => ⟨by simp, by simp⟩, ⟨by simp, by simp⟩, ⟨by simp, by simp⟩, by simp, by simp⟩
theorem OnlyBus.setOracle {b : BusId} {s t : State} (h : OnlyBus b s t) (o : Oracle) : OnlyBus b s (t.setOracle o) :=
  h.trans ⟨fun b' _ => ⟨by simp, by simp⟩, ⟨by simp, by simp⟩, ⟨by simp, by simp⟩, by simp, by simp⟩

/-! ## The lock bank -/

theorem one_shiftLeft_ne_zero : ∀ n : LockId, (1 : Word) <<< n.val ≠ 0 := by decide
/-- A test-and-set of a free lock claims it (R110). -/
theorem lockTAS_free {c : CoreId} {n : LockId} {s : State} (h : (s.lock n).claimed = false) :
    lockTAS c n s = ((1 : Word) <<< n.val,
      (s.setLock n { s.lock n with claimed := true }).setCore c
        { s.coreOf c with pendView := (s.coreOf c).pendView.join (s.lock n).view }) := by
  simp only [lockTAS, h, Bool.false_eq_true, if_false]
/-- A test-and-set of a claimed lock reads 0 and changes nothing (R110). -/
theorem lockTAS_claimed {c : CoreId} {n : LockId} {s : State} (h : (s.lock n).claimed = true) :
    lockTAS c n s = (0, s) := by
  simp only [lockTAS, h, if_true]

/-! ## Ordinary memory -/

/-- A write of memory, inside the launch memory: what it changes. -/
theorem memWrite_in {c : CoreId} {a : Nat} {v : Byte} {s : State} (h : s.params.inMemory a = true) :
    memWrite c a v s = some (((s.setMem (s.mem.write a v)
      (⟨a, v, s.mem.read a, c, (s.coreOf c).nWrites + 1, (s.coreOf c).acqView⟩ :: s.writes)).setAhead
        (s.ahead.filter fun w => !w.performedBy c a v (s.coreOf c).acqView)).setCore c
          { s.coreOf c with nWrites := (s.coreOf c).nWrites + 1 }) := by
  simp only [memWrite, h, if_true]
theorem memWrite_out {c : CoreId} {a : Nat} {v : Byte} {s : State} (h : s.params.inMemory a = false) :
    memWrite c a v s = none := by simp [memWrite, h]
theorem memRead_out {c : CoreId} {a : Nat} {s : State} (h : s.params.inMemory a = false) : memRead c a s = none := by
  simp [memRead, h]
/-- A read with one candidate takes it and draws nothing. -/
theorem memRead_single {c : CoreId} {a : Nat} {v : Byte} {s : State} (h : s.params.inMemory a = true)
    (hc : readChoices c a s = [v]) : memRead c a s = some (v, s) := by simp [memRead, h, hc]
/-- A read changes the inputs and what the announced writes have been raced with, at most. -/
theorem memRead_state {c : CoreId} {a : Nat} {d : Byte} {s s1 : State} (h : memRead c a s = some (d, s1)) :
    ∃ o l, s1 = (s.setOracle o).setAhead l := by
  have self : s = (s.setOracle s.oracle).setAhead s.ahead := rfl
  unfold memRead at h
  split at h
  · split at h
    · obtain ⟨o, ho⟩ := drawChoice_snd s
      simp only [Option.some.injEq, Prod.mk.injEq] at h
      exact ⟨o, _, by rw [← h.2, ho, markRaced]⟩
    · simp only [Option.some.injEq, Prod.mk.injEq] at h
      exact ⟨_, _, h.2.symm.trans self⟩
    · simp only [Option.some.injEq, Prod.mk.injEq] at h
      exact ⟨_, _, h.2.symm.trans self⟩
  · cases h
/-- A read answers one of its candidates (R61). -/
theorem memRead_mem {c : CoreId} {a : Nat} {d : Byte} {s s1 : State} (h : memRead c a s = some (d, s1)) :
    d ∈ readChoices c a s := by
  have hne : readChoices c a s ≠ [] := by simp only [readChoices]; split <;> simp
  unfold memRead at h
  split at h
  · split at h
    · rename_i v w r hc
      simp only [Option.some.injEq, Prod.mk.injEq] at h
      rw [hc, ← h.1, List.getD_eq_getElem?_getD,
        List.getElem?_eq_getElem (by simpa using Nat.mod_lt _ (Nat.succ_pos _))]
      exact List.getElem_mem _
    · rename_i v hc
      simp only [Option.some.injEq, Prod.mk.injEq] at h
      simp [hc, h.1]
    · rename_i hc; exact absurd hc hne
  · cases h
/-- The candidates of a read depend on memory, its log, the announced writes and what the core has acquired. -/
theorem readChoices_congr {c : CoreId} {a : Nat} {s t : State} (hm : t.mem = s.mem) (hw : t.writes = s.writes)
    (hd : t.ahead = s.ahead) (hv : (t.coreOf c).acqView = (s.coreOf c).acqView) :
    readChoices c a t = readChoices c a s := by
  unfold readChoices State.initial State.aheadOf State.writesOf; rw [hm, hw, hd, hv]
/-- With no write of the other core announced and every write ordered before it, a read has the latest write's value first. -/
theorem readChoices_ordered {c : CoreId} {a : Nat} {s : State} (hd : ∀ w ∈ s.ahead, w.addr = a → w.core = c)
    (hw : ∀ e ∈ s.writesOf a, e.before c (s.coreOf c).acqView = true) :
    readChoices c a s = s.mem.read a ::
      (((s.writesOf a).drop 1).filter fun e => !((s.writesOf a).any fun f => e.hb f)).map (·.val) := by
  have h1 : s.aheadOf c a = [] := by
    simp only [State.aheadOf, List.filter_eq_nil_iff, Ahead.races, Bool.and_eq_true, decide_eq_true_eq, not_and, not_not]
    exact hd
  unfold readChoices
  rw [if_pos ⟨h1, List.all_eq_true.2 hw⟩]
/-- A read with an announced write of the other core to its byte may answer its value, any write's, or the initial value (R61). -/
theorem mem_readChoices_racing {c : CoreId} {a : Nat} {v : Byte} {s : State} (h : s.aheadOf c a ≠ []) :
    v ∈ readChoices c a s ↔
      (∃ e ∈ s.writesOf a, e.val = v) ∨ v = s.initial a ∨ ∃ w ∈ s.aheadOf c a, w.val = v := by
  unfold readChoices
  rw [if_neg fun g => h g.1]
  simp

/-- What an announcement does: nothing, outside the launch memory; else one more announced write, of a number above the others. -/
theorem announce_cases {c : CoreId} {a : Nat} {v : Byte} {s t : State} (h : announce c a v s = .next t) :
    t = s ∨ (s.params.inMemory a = true ∧ ∃ num, t = s.setAhead (⟨num, a, v, c, none⟩ :: s.ahead) ∧
      ((s.ahead.Pairwise fun new old => old.num < new.num) → ∀ w ∈ s.ahead, w.num < num)) := by
  simp only [announce] at h
  split at h
  · rename_i hin
    refine .inr ⟨hin, _, (Host.Outcome.next.inj h).symm, fun hp w hw => ?_⟩
    cases hs : s.ahead with
    | nil => simp [hs] at hw
    | cons f r =>
      rw [hs, List.pairwise_cons] at hp
      rw [hs, List.mem_cons] at hw
      rcases hw with rfl | hw
      · exact Nat.lt_succ_self _
      · exact Nat.lt_succ_of_lt (hp.1 w hw)
  · exact .inl (Host.Outcome.next.inj h).symm
/-- An announced write a read has counted is the one it was, but for that read. -/
theorem mem_markRaced {c : CoreId} {a : Nat} {s : State} {w : Ahead} (h : w ∈ (markRaced c a s).ahead) :
    w ∈ s.ahead ∨ ∃ u ∈ s.ahead, u.races c a = true ∧
      w = { u with raced := some (c, ((s.coreOf c).relView.get c).fences) } := by
  simp only [markRaced, State.setAhead, List.mem_map] at h
  obtain ⟨u, hu, rfl⟩ := h
  split
  · rename_i hr; exact .inr ⟨u, hu, hr.1, rfl⟩
  · exact .inl hu
/-- Counting a read changes no number. -/
theorem markRaced_nums (c : CoreId) (a : Nat) (s : State) :
    (markRaced c a s).ahead.map (·.num) = s.ahead.map (·.num) := by
  simp only [markRaced, State.setAhead, List.map_map]
  refine List.map_congr_left fun w _ => ?_
  simp only [Function.comp]
  split <;> rfl
/-- After a read the announced writes are those before it, each counted at most. -/
theorem memRead_ahead {c : CoreId} {a : Nat} {d : Byte} {s s1 : State} (h : memRead c a s = some (d, s1)) :
    s1.ahead = s.ahead ∨ s1.ahead = (markRaced c a s).ahead := by
  unfold memRead at h
  split at h
  · split at h
    · obtain ⟨o, ho⟩ := drawChoice_snd s
      simp only [Option.some.injEq, Prod.mk.injEq] at h
      exact .inr (by rw [← h.2, ho]; simp [markRaced])
    · simp only [Option.some.injEq, Prod.mk.injEq] at h
      exact .inl (by rw [h.2])
    · simp only [Option.some.injEq, Prod.mk.injEq] at h
      exact .inl (by rw [h.2])
  · cases h

/-! ## Issuing a request -/

@[simp] theorem Engine.reinit_ron (e : Engine) : e.reinit.ron = e.ron := rfl
@[simp] theorem Engine.reinit_configured (e : Engine) : e.reinit.configured = e.configured := rfl
@[simp] theorem Engine.reinit_result (e : Engine) : e.reinit.result = e.result := rfl
@[simp] theorem Engine.reinit_resultIndex (e : Engine) : e.reinit.resultIndex = e.resultIndex := rfl

/-- An `IDLE` engine takes the request, and the core waits for it (R58, R69, R179). -/
theorem issueRequest_idle {c : CoreId} {b : BusId} {load : Operands → Engine → Engine} {s : State}
    (hp : (s.coreOf c).frame.phase = .ready) (hi : (s.eng b).state = .IDLE) :
    issueRequest c b load s = .next ((s.setEng b
      { load (s.coreOf c).record (s.eng b).reinit with
        requester := c, operands := (s.coreOf c).record, sub := 0 }).setCore c
      { s.coreOf c with frame := { (s.coreOf c).frame with phase := .waitEng b } }) := by
  simp only [issueRequest, hp, hi, if_true, setPhase_eq, State.coreOf_setEng]
/-- An engine at work takes no request (R66). -/
theorem issueRequest_busy {c : CoreId} {b : BusId} {load : Operands → Engine → Engine} {s : State}
    (hp : (s.coreOf c).frame.phase = .ready) (hi : (s.eng b).state ≠ .IDLE) :
    issueRequest c b load s = .fault (.ConcurrentUse (.core c) b (s.eng b).requester c) := by
  simp only [issueRequest, hp, hi, if_false, fatal]
/-- The result is taken, and the core goes on to its next line (R58). -/
theorem issueRequest_gotResult {c : CoreId} {b : BusId} {load : Operands → Engine → Engine} {s : State} {r : Result}
    {idx : Nat} (hp : (s.coreOf c).frame.phase = .gotResult r idx) :
    issueRequest c b load s = .next (nextLine c (s.setCore c { s.coreOf c with lastResult := r, lastIndex := idx })) := by
  simp only [issueRequest, hp]
/-- A waiting core has no step (R58). -/
theorem issueRequest_waits {c : CoreId} {b b' : BusId} {load : Operands → Engine → Engine} {s : State}
    (hp : (s.coreOf c).frame.phase = .waitEng b') : issueRequest c b load s = .next s := by
  simp only [issueRequest, hp, noStep]

/-! ## Several steps -/

@[simp] theorem execTimes_zero (i : Instr) (s : State) : execTimes i 0 s = .next s := rfl
theorem execTimes_succ {i : Instr} {n : Nat} {s t : State} (h : exec i s = .next t) :
    execTimes i (n + 1) s = execTimes i n t := by simp only [execTimes, h]
@[simp] theorem runPicks_nil (s : State) : runPicks [] s = .next s := rfl
theorem runPicks_cons {p : Pick} {r : List Pick} {s t : State} (h : runPick p s = .next t) :
    runPicks (p :: r) s = runPicks r t := by simp only [runPicks, h]
theorem runPicks_append {p q : List Pick} {s t : State} (h : runPicks p s = .next t) :
    runPicks (p ++ q) s = runPicks q t := by
  induction p generalizing s with
  | nil => simp only [runPicks, Host.Outcome.next.injEq] at h; subst h; rfl
  | cons a p ih =>
    simp only [runPicks, List.cons_append] at h ⊢
    cases ha : runPick a s with
    | next u => simp only [ha] at h ⊢; exact ih h
    | fault f => simp [ha] at h
    | refused f => simp [ha] at h

/-! ## What a step can be -/

/-- A step is the step of a pick, in the same state but for the inputs. -/
theorem step_pick (s : State) : ∃ o, step s = runPick s.pick (s.setOracle o) := by
  obtain ⟨o, ho⟩ := drawPick_snd s
  exact ⟨o, by rw [step, ho]; rfl⟩

end Sys2Proof.Machine
end

