-- ==== Sys2Proof/Laws/Bus.lean ====
section
/-! SUPPORT. One law for each part of a controller's step: which controller registers it leaves, with the inputs the only other
thing that changes. -/

namespace Sys2Proof.Machine

open Sys2Proof.Config

theorem Ctl.canRun_iff (x : Ctl) : x.canRun = true ↔ x.Runs := by
  simp [Ctl.canRun, Ctl.Runs, and_assoc]

/-- R93: a command has no framing of its own exactly when it goes on with the open transaction in its direction. -/
theorem Ctl.framing_eq_none {x : Ctl} {restart : Bool} {rw' : Dir} :
    x.framing restart rw' = .NONE ↔ x.busOpen = true ∧ restart = false ∧ x.dir = rw' := by
  cases restart <;> cases h : x.busOpen <;> by_cases hd : x.dir = rw' <;> simp [Ctl.framing, h, hd]
/-- R93: any other command has a start on an idle bus and a repeated start on an open one. -/
theorem Ctl.framing_events {x : Ctl} {restart : Bool} {rw' : Dir} (h : x.framing restart rw' ≠ .NONE) :
    (x.framing restart rw').events = [if x.busOpen = false then .START else .RESTART] := by
  cases restart <;> cases hb : x.busOpen <;> by_cases hd : x.dir = rw' <;>
    simp [Ctl.framing, hb, hd, Framing.events] at h ⊢

theorem emit_eq (b : BusId) (ev : List BusEvent) (s : State) :
    emit b ev s = s.setCtl b { s.ctl b with trace := (s.ctl b).trace ++ ev } := rfl

/-- Events before a command's own. -/
theorem EndedCommand.after {stop : Bool} {rw' : Dir} {ev ev' : List BusEvent} {x y : Ctl}
    (h : EndedCommand stop rw' ev' { x with trace := x.trace ++ ev } y) : EndedCommand stop rw' (ev ++ ev') x y := by
  obtain ⟨h1, h2, h3, h4, rest⟩ := h
  exact ⟨by simpa using h1, h2, h3, h4, rest⟩

/-- Events before an abort's own. -/
theorem AbortedWith.after {m : Word} {ev ev' : List BusEvent} {x y : Ctl}
    (h : AbortedWith m ev' { x with trace := x.trace ++ ev } y) : AbortedWith m (ev ++ ev') x y := by
  obtain ⟨e, h⟩ := h
  exact ⟨e, by rw [h]; simp⟩

/-- R101: an abort leaves the controller aborted, with the extra bits it has drawn. -/
theorem abortWith_spec (b : BusId) (m : Word) (s : State) :
    ∃ o, abortWith b m s = (s.setCtl b { s.ctl b with
      abrtSrc := (s.ctl b).abrtSrc ||| m ||| (drawExtra s).1, txq := [], inflight := none,
      pendingStop := true }).setOracle o := by
  obtain ⟨o, ho⟩ := drawExtra_snd s
  exact ⟨o, by simp [abortWith, ho]⟩

/-- R95: the data phase of CMD_WRITE. -/
theorem writeData_spec (b : BusId) (dat : Byte) (stop : Bool) (s : State) :
    ∃ y o, writeData b dat stop s = (s.setCtl b y).setOracle o ∧
      ((drawAck s).1 = true → EndedCommand stop .W [.DATA_W dat, .ACK] (s.ctl b) y ∧ y.rxq = (s.ctl b).rxq) ∧
      ((drawAck s).1 = false → AbortedWith 8 [.DATA_W dat, .NACK] (s.ctl b) y) := by
  obtain ⟨o, ho⟩ := drawAck_snd (emit b [.DATA_W dat] s)
  have ha := (drawAck_congr (s := emit b [.DATA_W dat] s) (t := s) (by simp [emit])).1
  cases h : (drawAck s).1
  · obtain ⟨o2, hx⟩ := abortWith_spec b 8 (emit b [.NACK] (drawAck (emit b [.DATA_W dat] s)).2)
    generalize (drawExtra _).1 = extra at hx
    refine ⟨_, o2, ?_, by simp, fun _ => ⟨extra, rfl⟩⟩
    have : writeData b dat stop s = abortWith b 8 (emit b [.NACK] (drawAck (emit b [.DATA_W dat] s)).2) := by
      simp only [writeData, ha, h, Bool.false_eq_true, if_false, ackEvent]; rfl
    rw [this, hx, ho]
    simp [emit]
  · have : writeData b dat stop s = endCommand b stop .W (emit b [.ACK] (drawAck (emit b [.DATA_W dat] s)).2) := by
      simp only [writeData, ha, h, if_true, ackEvent]
    cases stop
    · refine ⟨{ s.ctl b with
        trace := (s.ctl b).trace ++ [.DATA_W dat, .ACK], inflight := none, busOpen := true, dir := .W }, o, ?_, fun _ => ?_, by simp⟩
      · rw [this, ho]; simp [endCommand, emit]
      · simp [EndedCommand]
    · refine ⟨{ s.ctl b with trace := (s.ctl b).trace ++ [.DATA_W dat, .ACK], inflight := none, pendingStop := true },
        o, ?_, fun _ => ?_, by simp⟩
      · rw [this, ho]; simp [endCommand, emit]
      · simp [EndedCommand]

/-- R97: the data phase of CMD_READ. -/
theorem readData_spec (b : BusId) (stop : Bool) (s : State) :
    ∃ y o, readData b stop s = (s.setCtl b y).setOracle o ∧
      EndedCommand stop .R [.DATA_R (drawByte s).1, ackEvent (!stop)] (s.ctl b) y ∧
      y.rxq = (s.ctl b).rxq ++ [(drawByte s).1] := by
  obtain ⟨o, ho⟩ := drawByte_snd s
  cases stop
  · refine ⟨{ s.ctl b with
      trace := (s.ctl b).trace ++ [.DATA_R (drawByte s).1, .ACK], rxq := (s.ctl b).rxq ++ [(drawByte s).1],
      inflight := none, busOpen := true, dir := .R }, o, ?_, ?_, rfl⟩
    · simp [readData, ho, endCommand, emit, ackEvent]
    · simp [EndedCommand, ackEvent]
  · refine ⟨{ s.ctl b with
      trace := (s.ctl b).trace ++ [.DATA_R (drawByte s).1, .NACK], rxq := (s.ctl b).rxq ++ [(drawByte s).1],
      inflight := none, pendingStop := true }, o, ?_, ?_, rfl⟩
    · simp [readData, ho, endCommand, emit, ackEvent]
    · simp [EndedCommand, ackEvent]

/-- R94: the address phase goes on with the data phase, or aborts. -/
theorem addressPhase_spec (b : BusId) (fr : Framing) (a : BitVec 7) (rw' : Dir) (go : State → State) (s : State) :
    ∃ o, s.setOracle o = (drawAck s).2 ∧
      ((drawAck s).1 = true → addressPhase b fr a rw' go s = go ((s.setCtl b { s.ctl b with
        trace := (s.ctl b).trace ++ (fr.events ++ [.ADDR a rw', .ACK]) }).setOracle o)) ∧
      ((drawAck s).1 = false → ∃ y o2, addressPhase b fr a rw' go s = (s.setCtl b y).setOracle o2 ∧
        AbortedWith 1 (fr.events ++ [.ADDR a rw', .NACK]) (s.ctl b) y) := by
  obtain ⟨o, ho⟩ := drawAck_snd (emit b (fr.events ++ [.ADDR a rw']) s)
  obtain ⟨o', ho'⟩ := drawAck_snd s
  have hc := drawAck_congr (s := emit b (fr.events ++ [.ADDR a rw']) s) (t := s) (by simp [emit])
  have hoo : o = o' := by
    have := hc.2; rw [ho, ho'] at this; simpa using this
  subst hoo
  refine ⟨o, ho'.symm, fun h => ?_, fun h => ?_⟩
  · simp only [addressPhase, hc.1, h, if_true, ackEvent, ho]
    congr 1
    simp [emit]
  · obtain ⟨o2, hx⟩ := abortWith_spec b 1 (emit b [.NACK] (drawAck (emit b (fr.events ++ [.ADDR a rw']) s)).2)
    generalize (drawExtra _).1 = extra at hx
    refine ⟨_, o2, ?_, extra, rfl⟩
    have : addressPhase b fr a rw' go s =
        abortWith b 1 (emit b [.NACK] (drawAck (emit b (fr.events ++ [.ADDR a rw']) s)).2) := by
      simp only [addressPhase, hc.1, h, Bool.false_eq_true, if_false, ackEvent]; rfl
    rw [this, hx, ho]
    simp [emit]

/-- A controller step that is a command: the outcome is a state that differs in the controller and the inputs, or the fault of
an unwritten read. -/
theorem performed_cases {b : BusId} {s t : State} {i : Instr} (hi : i.port = .dataCmd) (hc : s.cur = .ctl b)
    (h : exec i s = .next t) : ∃ y o, t = (s.setCtl b y).setOracle o := by
  have self : ∃ y o, s = (s.setCtl b y).setOracle o := ⟨s.ctl b, s.oracle, by simp; rfl⟩
  have main : ∀ (restart : Bool) (rw' : Dir) (go : State → State),
      (∀ s', ∃ y o, go s' = (s'.setCtl b y).setOracle o) →
      withFraming b restart rw' go s = .next t → ∃ y o, t = (s.setCtl b y).setOracle o := by
    intro restart rw' go hgo h
    simp only [withFraming] at h
    split at h
    · simp only [Host.Outcome.next.injEq] at h; subst h; exact hgo s
    · split at h
      · cases h
      · simp only [Host.Outcome.next.injEq] at h
        subst h
        rename_i a _
        obtain ⟨o, _, h1, h2⟩ := addressPhase_spec b ((s.ctl b).framing restart rw') a rw' go s
        cases hk : (drawAck s).1
        · obtain ⟨y, o2, he, _⟩ := h2 hk; exact ⟨y, o2, he⟩
        · rw [h1 hk]
          obtain ⟨y, o2, he⟩ := hgo ((s.setCtl b { s.ctl b with
            trace := (s.ctl b).trace ++ (((s.ctl b).framing restart rw').events ++ [.ADDR a rw', .ACK]) }).setOracle o)
          exact ⟨y, o2, by rw [he]; simp⟩
  cases i <;> simp [Instr.port] at hi
  · simp only [exec, execCmdWrite, hc, Agent.bus] at h
    split at h
    · exact main _ _ _ (fun s' => by obtain ⟨y, o, he, _⟩ := writeData_spec b _ _ s'; exact ⟨y, o, he⟩) h
    · simp only [noStep, Host.Outcome.next.injEq] at h; subst h; exact self
  · simp only [exec, execCmdRead, hc, Agent.bus] at h
    split at h
    · exact main _ _ _ (fun s' => by obtain ⟨y, o, he, _⟩ := readData_spec b _ s'; exact ⟨y, o, he⟩) h
    · simp only [noStep, Host.Outcome.next.injEq] at h; subst h; exact self

end Sys2Proof.Machine
end

