-- ==== Sys2Proof/Laws/PerInstr.lean ====
section
/-! SUPPORT. Per instruction: the word of a well-formed instruction belongs to its own row of the opcode table. -/

namespace Sys2Proof.Laws.MatchesRow

/-- R76, R79, R80: the encoder's word hits the instruction's own row, a row of the table on the instruction's port. -/
def Statement (i : Instr) : Prop := i.wf = true → i.row.hits (encode i) = true ∧ i.row ∈ opRows ∧ i.row.port = i.port

theorem mem_opRows (i : Instr) : i.row ∈ opRows := by cases i <;> simp [Instr.row, opRows]

/-- No row of `A8` but CONFIGURE's and SETBAUD's asks for a value of it. -/
theorem erqWord_without_a8 (op : BitVec 4) (ns : Bool) (bi : BitVec 1) (a8 : Byte) :
    erqWord op ns bi a8 &&& 0xFFFF00FF = erqWord op ns bi 0 := by
  apply BitVec.eq_of_getLsbD_eq
  intro j hj
  simp only [erqWord, BitVec.getLsbD_and, BitVec.getLsbD_append]
  interval_cases j <;> simp

/-- A mask that leaves `A8` out sees only the other fields. -/
theorem hits_without_a8 {m p : Word} (op : BitVec 4) (ns : Bool) (bi : BitVec 1) (a8 : Byte)
    (hm : 0xFFFF00FF &&& m = m) (h : erqWord op ns bi 0 &&& m = p) :
    OpRow.hits ⟨.request, m, p⟩ (erqWord op ns bi a8) = true := by
  have : erqWord op ns bi a8 &&& m = p := by rw [← hm, ← BitVec.and_assoc, erqWord_without_a8, h]
  simp [OpRow.hits, this]

/-- Bit 8 of a command word is `CMD`. -/
theorem cmdw_hits (restart stop cmd : Bool) (dat : Byte) :
    (cmdw restart stop cmd dat).setWidth 32 &&& 0x100 = if cmd then 0x100 else (0 : Word) := by
  apply BitVec.eq_of_getLsbD_eq
  intro j hj
  simp only [cmdw, BitVec.getLsbD_and, BitVec.getLsbD_setWidth, BitVec.getLsbD_append]
  interval_cases j <;> cases cmd <;> simp

theorem configure (bi : BusId) : Statement (.configure bi) := by unfold Statement; cases bi <;> decide
theorem setbaud (bi : BusId) : Statement (.setbaud bi) := by unfold Statement; cases bi <;> decide

theorem write (bi : BusId) (ns : Bool) (a8 : Byte) : Statement (.write bi ns a8) :=
  fun _ => ⟨hits_without_a8 _ _ _ _ (by decide) (by cases bi <;> cases ns <;> decide), mem_opRows _, rfl⟩

theorem read (bi : BusId) (ns : Bool) (a8 : Byte) : Statement (.read bi ns a8) :=
  fun _ => ⟨hits_without_a8 _ _ _ _ (by decide) (by cases bi <;> cases ns <;> decide), mem_opRows _, rfl⟩

theorem transfer (bi : BusId) (a8 : Byte) : Statement (.transfer bi a8) :=
  fun _ => ⟨hits_without_a8 _ _ _ _ (by decide) (by cases bi <;> decide), mem_opRows _, rfl⟩

theorem spinAcq (id : Nat) : Statement (.spinAcq id) :=
  fun _ => ⟨hits_without_a8 _ _ _ _ (by decide) (by decide), mem_opRows _, rfl⟩

theorem spinRel (id : Nat) : Statement (.spinRel id) :=
  fun _ => ⟨hits_without_a8 _ _ _ _ (by decide) (by decide), mem_opRows _, rfl⟩

theorem cmdWrite (dat : Byte) (stop restart : Bool) : Statement (.cmdWrite dat stop restart) :=
  fun _ => ⟨by have := cmdw_hits restart stop false dat; simp_all [Instr.row, rowCmdWrite, encode, OpRow.hits], mem_opRows _, rfl⟩

theorem cmdRead (dat : Byte) (stop restart : Bool) : Statement (.cmdRead dat stop restart) :=
  fun _ => ⟨by have := cmdw_hits restart stop true dat; simp_all [Instr.row, rowCmdRead, encode, OpRow.hits], mem_opRows _, rfl⟩

theorem lockTas (n : LockId) : Statement (.lockTas n) := by unfold Statement; revert n; decide
theorem lockClr (n : LockId) : Statement (.lockClr n) := by unfold Statement; revert n; decide

end Sys2Proof.Laws.MatchesRow
end

