-- ==== Sys2Proof/Machine/RegisterMap.lean ====
section
/-! DEFINITION. The informative register map (R46 to R48, decision D37): names at byte offsets, and the fault of a misaligned
access (R51). The engine reaches registers by name; no step of the machine uses an address (log 29). -/

namespace Sys2Proof.Machine

/-- R46, the Offset column; `ABRT_SRC` is read at 0x80. `RON` and `DIR` are no registers. -/
def RegName.offset : RegName → Option Nat
  | .CON => some 0x00
  | .TAR => some 0x04
  | .DATA_CMD => some 0x10
  | .FS_HCNT => some 0x1C
  | .FS_LCNT => some 0x20
  | .RAW_STATUS => some 0x34
  | .RX_TL => some 0x38
  | .TX_TL => some 0x3C
  | .CLR_STOP_DET => some 0x60
  | .ENABLE => some 0x6C
  | .TXFLR => some 0x74
  | .RXFLR => some 0x78
  | .SDA_HOLD => some 0x7C
  | .ABRT_SRC => some 0x80
  | .DMA_CR => some 0x88
  | .FS_SPKLEN => some 0xA0
  | .RON => none

/-- The registers of one controller. -/
def regNames : List RegName :=
  [.CON, .TAR, .DATA_CMD, .FS_HCNT, .FS_LCNT, .RAW_STATUS, .RX_TL, .TX_TL, .CLR_STOP_DET, .ENABLE, .TXFLR, .RXFLR,
   .SDA_HOLD, .ABRT_SRC, .DMA_CR, .FS_SPKLEN]

/-- R47: the instance's base address. -/
def busBase : BusId → Nat
  | .i2c0 => 0x40044000
  | .i2c1 => 0x40048000

/-- R47: the instance's bit of the reset controller. -/
def resetBit : BusId → Nat
  | .i2c0 => 3
  | .i2c1 => 4

/-- R48: the address of lock register `n`. -/
def lockAddr (n : LockId) : Nat := 0xD0000000 + 0x100 + 4 * n.val

/-- The register of instance `b` at byte address `a`, by agent `ag`: `fatal Misaligned` off a multiple of 4 (R51); `none` where
the map names no register. -/
def regAt (ag : Agent) (b : BusId) (a : Nat) : Except Fault (Option RegName) :=
  if a % 4 ≠ 0 then .error (.Misaligned ag a)
  else .ok (regNames.find? fun r => decide (r.offset.map (busBase b + ·) = some a))

/-- R49: the byte at offset `j` of a 32-bit word in memory, little-endian. -/
def wordByte (w : Word) (j : Nat) : Byte := w.extractLsb' (8 * j) 8

end Sys2Proof.Machine
end

