-- ==== Sys2Proof/Tests/Slice0.lean ====
section
/-! SUPPORT. The model's own tests: one step, one decoding or one value each, expected results from 95_test_vectors.md, from the
opcode tables and from the rules; then, for each obligation that has hypotheses, a state and operands that meet them. -/

namespace Sys2Proof.Tests

open Sys2Proof Sys2Proof.Machine Sys2Proof.Config

/-! ## Well-formedness and decoding -/

/-- R70, R73: an id outside the 8-bit field has no encoding. -/
theorem test_wf_refuses_wide_lock_ids :
    (Instr.spinAcq 256).wf = false ∧ (Instr.spinRel 256).wf = false ∧ (Instr.spinAcq 255).wf = true ∧
    (Instr.spinRel 32).wf = true := by decide

/-- V1, V2: one word of each row, its fields written out: A8, BI, NS and OP of R70; RESTART, STOP, CMD and DAT of R71; W and N of
R72. -/
theorem test_decode_each_row :
    decode .request (0b0000000000000000#16 ++ 0x00#8 ++ 0b00#2 ++ 0b1#1 ++ 0b0#1 ++ 0x1#4) = .ok (.configure .i2c1) ∧
    decode .request (0b0000000000000000#16 ++ 0x00#8 ++ 0b00#2 ++ 0b0#1 ++ 0b0#1 ++ 0x2#4) = .ok (.setbaud .i2c0) ∧
    decode .request (0b0000000000000000#16 ++ 0x3C#8 ++ 0b00#2 ++ 0b1#1 ++ 0b0#1 ++ 0x3#4) = .ok (.write .i2c1 false 0x3C) ∧
    decode .request (0b0000000000000000#16 ++ 0x50#8 ++ 0b00#2 ++ 0b1#1 ++ 0b1#1 ++ 0x4#4) = .ok (.read .i2c1 true 0x50) ∧
    decode .request (0b0000000000000000#16 ++ 0x3C#8 ++ 0b00#2 ++ 0b0#1 ++ 0b0#1 ++ 0x5#4) = .ok (.transfer .i2c0 0x3C) ∧
    decode .request (0b0000000000000000#16 ++ 0x20#8 ++ 0b00#2 ++ 0b0#1 ++ 0b0#1 ++ 0x6#4) = .ok (.spinAcq 32) ∧
    decode .request (0b0000000000000000#16 ++ 0x05#8 ++ 0b00#2 ++ 0b0#1 ++ 0b0#1 ++ 0x7#4) = .ok (.spinRel 5) ∧
    decodeCmdw (0b1#1 ++ 0b1#1 ++ 0b0#1 ++ 0xA5#8) = .cmdWrite 0xA5 true true ∧
    decodeCmdw (0b1#1 ++ 0b0#1 ++ 0b1#1 ++ 0x00#8) = .cmdRead 0 false true ∧
    decodeLka (0b0#1 ++ 0b11111#5) = .lockTas 31 ∧ decodeLka (0b1#1 ++ 0b00101#5) = .lockClr 5 := by decide

/-- V1: the illegal ERQ words, each with why. -/
theorem test_decode_illegal :
    [0x0, 0x8, 0xF].all (fun q => decode .request q = .error .reservedOp) = true ∧
    [0x11, 0x41, 0x5001, 0x5015, 0x526, 0x516, 0x15003, 0x5083].all
      (fun q => decode .request q = .error .mustBeZero) = true := by decide

/-- R76, R79, R80: two rows of one port differ in a bit that both masks cover. -/
theorem test_rows_disjoint :
    opRows.Pairwise fun r q => r.port = q.port → r.pattern &&& (r.mask &&& q.mask) ≠ q.pattern &&& (r.mask &&& q.mask) := by
  decide

/-- The opcode table's own match words, each of its row's width. -/
theorem test_table_words :
    [0x1, 0x2, 0x3, 0x4, 0x5, 0x6, 0x7].map (decodeTableWord 32) =
      [some (.configure .i2c0), some (.setbaud .i2c0), some (.write .i2c0 false 0), some (.read .i2c0 false 0),
       some (.transfer .i2c0 0), some (.spinAcq 0), some (.spinRel 0)] ∧
    [0x0, 0x100].map (decodeTableWord 32) = [some (.cmdWrite 0 false false), some (.cmdRead 0 false false)] ∧
    [0x0, 0x100].map (decodeTableWord 16) = [some (.cmdWrite 0 false false), some (.cmdRead 0 false false)] ∧
    [0x00, 0x20].map (decodeTableWord 8) = [some (.lockTas 0), some (.lockClr 0)] := by decide

/-! ## Small states -/

/-- What a test reads of an outcome's next state. -/
def got {α : Type} (f : State → α) : Out → Option α
  | .next s => some (f s)
  | .fault _ => none
  | .refused _ => none

def faultOf : Out → Option Fault
  | .next _ => none
  | .fault e => some e
  | .refused _ => none

/-- Core 0 between two lines, with one request line. -/
def core (ie : Bool) (held : List Guard) (o : Operands) : Core :=
  { Core.launch ie [.req 0x5013 o] with held := held }

/-- Core 0 is the agent, at the given position. -/
def atCore (k : Core) (p : CorePhase) : State :=
  State.reset.setCore .core0 { k with frame := { k.frame with phase := p } }

/-- A configured engine with core 0's request for one byte at address 0x50, at statement `sub` of state `st`. -/
def eng (op : EngOp) (st : EngState) (sub : Nat) : Engine :=
  { Engine.reset with
    op := op, state := st, sub := sub, configured := true, addr := 0x50, len := 1, ron := some true,
    operands := ⟨100000, 0x10, 1, 0x20, 1, 0⟩ }

/-- A controller that is configured, addressed and enabled. -/
def ctl : Ctl :=
  { Ctl.reset with
    con := ⟨some true, some 2, some false, some true, some true⟩, en := some true, tar := some 0x50 }

/-- The engine of instance 0 is the agent; core 0 waits for it. -/
def atEng (e : Engine) (x : Ctl) : State :=
  (((atCore (core true [] .zero) (.waitEng .i2c0)).setEng .i2c0 e).setCtl .i2c0 x).setCur (.eng .i2c0)

/-- The controller of instance 0 is the agent, with a command in flight. -/
def atCtl (x : Ctl) (acks : List Bool) (bytes : List Byte) : State :=
  ((State.reset.setCtl .i2c0 { x with inflight := some 0 }).setCur (.ctl .i2c0)).setOracle
    { Oracle.free with acks := acks, bytes := bytes, extras := [0] }

/-! ## One step of each instruction -/

/-- C2: the block reset clears what was left stale. -/
theorem test_configure_clears_stale :
    got (fun t => ((t.ctl .i2c0).abrtSrc, (t.ctl .i2c0).stopDet))
      (exec (.configure .i2c0) (atEng (eng .CONFIGURE .RESET_BLOCK 0) { ctl with abrtSrc := 1, stopDet := true })) =
    some (0, false) := by decide

/-- R179: a CONFIGURE keeps `RON`, `CONFIGURED` and the last result, and nothing else of the request before it. -/
theorem test_configure_reinitialises :
    got (fun t => t.eng .i2c0) (exec (.configure .i2c0) ((atCore (core true [] .zero) .ready).setEng .i2c0
      { eng .WRITE .IDLE 0 with
        k := 2, ns := true, budget := true, abort := true, lastabrt := 8, kabrt := 2, result := .DataError,
        resultIndex := 2, byte := 7 })) =
    some { Engine.reset with
      state := .RESET_BLOCK, ron := some true, configured := true, result := .DataError, resultIndex := 2 } := by decide

/-- S2: `CONFIGURE i2c0, 10000000` returns InvalidBaudrate. -/
theorem test_configure_refuses_a_fast_clock :
    got (fun t => (t.eng .i2c0).result)
      (exec (.configure .i2c0)
        (atEng { eng .CONFIGURE .FINISH 0 with operands := ⟨10000000, 0, 0, 0, 0, 0⟩ } ctl)) =
    some .InvalidBaudrate := by decide

/-- V3: the boundary frequencies. -/
theorem test_setbaud_boundaries :
    [0, 1144, 4237289, 5000000, 10000000, 0xFFFFFFFF].all badBaud = true ∧
    [1145, 18310, 100000, 999999, 1000000, 4237288].any badBaud = false ∧
    (baudLcnt 1145, baudHcnt 1145, baudHold 1145, baudSpk 1145 % 256) = (65502, 43668, 38, 253) ∧
    (baudLcnt 2000000, baudHcnt 2000000, baudHold 2000000, baudSpk 2000000) = (37, 26, 16, 2) := by decide

/-- B1: a spike length that does not fit, under `refuse`. -/
theorem test_setbaud_refuses_a_long_spike :
    faultOf (exec (.setbaud .i2c0)
      { atEng { eng .SETBAUD .CHECK 0 with operands := ⟨18310, 0, 0, 0, 0, 0⟩ } ctl with
        params := { Params.default with SPKLEN_OVERFLOW := .refuse } }) =
    some (.SpklenOverflow (.eng .i2c0) .i2c0 18310 256) := by decide

/-- V2, row 2: write 0xA5 as the only byte after a held bus: 0x6A5. -/
theorem test_write_pushes_its_word :
    got (fun t => (t.ctl .i2c0).txq)
      (exec (.write .i2c0 false 0x50) (atEng { eng .WRITE .ISSUE 1 with byte := 0xA5 } ctl)) = some [0x6A5] := by decide

/-- V4: addresses 0x08 and 0x77 pass the checks, their neighbours outside do not. -/
theorem test_write_checks_its_address :
    [0x07, 0x08, 0x77, 0x78].map (fun a => got (fun t => (t.eng .i2c0).result)
      (exec (.write .i2c0 false a) (atEng { eng .WRITE .CHECK 0 with addr := a, result := .Timeout } ctl))) =
    [some .InvalidTargetAddress, some .Timeout, some .Timeout, some .InvalidTargetAddress] := by decide

/-- V2, row 7: the first read command of three after a held bus: 0x500. -/
theorem test_read_pushes_its_word :
    got (fun t => (t.ctl .i2c0).txq)
      (exec (.read .i2c0 false 0x50) (atEng { eng .READ .ISSUE 0 with len := 3 } ctl)) = some [0x500] := by decide

/-- D1: the received byte goes to the buffer. -/
theorem test_read_stores_its_byte :
    got (fun t => t.mem) (exec (.read .i2c0 false 0x50) (atEng { eng .READ .POP 1 with byte := 0x12 } ctl)) =
      some [(0x20, 0x12)] := by decide

/-- E2: an empty TRANSFER is OK; E1: its address is checked all the same. -/
theorem test_transfer_of_nothing :
    [0x50, 0x00].map (fun a => got (fun t => (t.eng .i2c0).result)
      (exec (.transfer .i2c0 a)
        (atEng { eng .TRANSFER .CHECK 0 with addr := a, operands := .zero, result := .Timeout } ctl))) =
    [some .OK, some .InvalidTargetAddress] := by decide

/-- R4: with nothing to write, TRANSFER is a READ of its own length. -/
theorem test_transfer_read_only :
    got (fun t => ((t.eng .i2c0).phase, (t.eng .i2c0).len))
      (exec (.transfer .i2c0 0x3C)
        (atEng { eng .TRANSFER .CHECK 0 with operands := ⟨0, 0, 0, 0x20, 2, 0⟩ } ctl)) = some (.read, 2) := by decide

/-- L6, L7: an id outside the bank, and a held one. -/
theorem test_spin_acq_faults :
    faultOf (exec (.spinAcq 32) (atCore (core true [] .zero) .ready)) =
      some (.SpinlockIdOutOfRange (.core .core0) .core0 32) ∧
    faultOf (exec (.spinAcq 5) (atCore (core false [⟨5, true⟩] .zero) .ready)) =
      some (.SelfDeadlock (.core .core0) .core0 5) := by decide

/-- L10: the acquire masks interrupts, then spins on a claimed lock. -/
theorem test_spin_acq_spins :
    got (fun t => (t.coreOf .core0).ie) (exec (.spinAcq 5) (atCore (core true [] .zero) .ready)) = some false ∧
    got (fun t => (t.coreOf .core0).frame.phase)
      (exec (.spinAcq 5) ((atCore (core false [] .zero) (.acqTas 5 true)).setLock 5 ⟨true, .zero⟩)) =
      some (.acqTas 5 true) := by decide

/-- L8, L9: no guard, and another guard on top. -/
theorem test_spin_rel_faults :
    faultOf (exec (.spinRel 5) (atCore (core true [] .zero) .ready)) =
      some (.GuardMismatch (.core .core0) .core0 5 none) ∧
    faultOf (exec (.spinRel 5) (atCore (core false [⟨6, false⟩, ⟨5, true⟩] .zero) .ready)) =
      some (.GuardMismatch (.core .core0) .core0 5 (some ⟨6, false⟩)) := by decide

/-- L5: the inner release leaves interrupts masked. -/
theorem test_spin_rel_restores :
    got (fun t => ((t.coreOf .core0).ie, (t.coreOf .core0).frame.pc))
      (exec (.spinRel 6) (atCore (core false [⟨5, true⟩] .zero) (.relIE false))) = some (false, 1) := by decide

/-- V5, rows 1 and 6: a first write command, and a data NACK. -/
theorem test_cmd_write :
    got (fun t => ((t.ctl .i2c0).trace, (t.ctl .i2c0).busOpen))
      (exec (.cmdWrite 0x10 false false) (atCtl ctl [true, true] [])) =
      some ([.START, .ADDR 0x50 .W, .ACK, .DATA_W 0x10, .ACK], true) ∧
    got (fun t => ((t.ctl .i2c0).trace, (t.ctl .i2c0).abrtSrc))
      (exec (.cmdWrite 0x10 true false) (atCtl ctl [true, false] [])) =
      some ([.START, .ADDR 0x50 .W, .ACK, .DATA_W 0x10, .NACK], 8) := by decide

/-- V5, rows 3 and 5: a read after a write on the open bus, and an address NACK. -/
theorem test_cmd_read :
    got (fun t => ((t.ctl .i2c0).trace, (t.ctl .i2c0).rxq))
      (exec (.cmdRead 0 false true) (atCtl { ctl with busOpen := true, dir := .W } [true] [0x3C])) =
      some ([.RESTART, .ADDR 0x50 .R, .ACK, .DATA_R 0x3C, .ACK], [0x3C]) ∧
    got (fun t => ((t.ctl .i2c0).abrtSrc, (t.ctl .i2c0).pendingStop))
      (exec (.cmdRead 0 true false) (atCtl ctl [false] [])) = some (1, true) := by decide

/-- L1, L2: the first test-and-set claims, the second reads 0. -/
theorem test_lock_tas :
    got (fun t => ((t.coreOf .core0).lkaVal, (t.lock 31).claimed))
      (exec (.lockTas 31) (State.reset.setCur (.bank .core0))) = some (0x80000000, true) ∧
    got (fun t => (t.coreOf .core1).lkaVal)
      (exec (.lockTas 5) ((State.reset.setLock 5 ⟨true, .zero⟩).setCur (.bank .core1))) = some 0 := by decide

/-- L3: no owner check. -/
theorem test_lock_clr :
    got (fun t => (t.lock 5).claimed)
      (exec (.lockClr 5) ((State.reset.setLock 5 ⟨true, .zero⟩).setCur (.bank .core1))) = some false := by decide

/-- V9: the classification of an abort. -/
theorem test_classify :
    [((1 : Word), 0), (1, 2), (9, 1), (8, 0), (8, 2), (0x10000, 3), (0, 4)].map (fun p => classify p.1 p.2) =
      [(.BusError, 0), (.BusError, 0), (.BusError, 0), (.DataError, 0), (.DataError, 2), (.DataError, 3),
       (.BusError, 0)] := by decide

/-- X1, X2: what a disable flushes and what it keeps, under both settings. -/
theorem test_disable :
    let x := { ctl with
      txq := [0x010], inflight := some 0x220, rxq := [0x12], busOpen := true, abrtSrc := 8, stopDet := true }
    let s := atEng (eng .WRITE .SETUP 0) x
    (disable .i2c0 s).ctl .i2c0 = { x with en := some false, txq := [], rxq := [], inflight := none } ∧
    ((disable .i2c0 { s with params := { s.params with DISABLE_ENDS_TRANSACTION := true } }).ctl .i2c0).pendingStop =
      true := by decide

/-- R49, R51: the informative map. -/
theorem test_register_map :
    (match regAt (.eng .i2c1) .i2c1 0x4004806C with | .error _ => none | .ok r => r) = some .ENABLE ∧
    lockAddr 31 = 0xD000017C ∧ wordByte 0x11223344 0 = 0x44 ∧
    (match regAt (.eng .i2c0) .i2c0 0x40044002 with | .error e => some e | .ok _ => none) =
      some (.Misaligned (.eng .i2c0) 0x40044002) := by decide

/-! ## States and operands that meet the hypotheses of the obligations -/

theorem witness_DecodeOfEncodeIsTheInstruction :
    (Instr.spinAcq 255).wf = true ∧ (Instr.spinRel 0).wf = true ∧ (Instr.write .i2c1 true 0xFF).wf = true ∧
    (Instr.cmdRead 0xFF true true).wf = true ∧ (Instr.lockClr 31).wf = true := by decide

theorem witness_EncodeOfDecodeIsTheWord :
    decode .request 0x00000001 = .ok (.configure .i2c0) ∧ decode .request 0x0000FF07 = .ok (.spinRel 255) := by decide

/-- Core 0 at one request line. -/
def atLine (q : Word) : State := State.reset.setCore .core0 (Core.launch true [.req q .zero])

theorem witness_IllegalRequestIsFatal :
    ((atLine 0).coreOf .core0).halted = false ∧ ((atLine 0).coreOf .core0).line = some (.req 0 .zero) ∧
    (∀ q ∈ [(0x0 : Word), 0x8, 0xF, 0x10001, 0x41, 0x81, 0x11, 0x15, 0x26, 0x27, 0x101, 0x102], IllegalErq q) ∧
    (∀ q ∈ [(0x1 : Word), 0x13, 0x14, 0x21, 0x25, 0xFF06, 0xFF33], ¬ IllegalErq q) := by
  exact ⟨rfl, rfl, by simp [IllegalErq], by simp [IllegalErq]⟩

theorem witness_StepRunsTheDecodedInstruction :
    let s1 := State.reset.withFetchWord 32 0x5013
    let s2 := pickNext (.eng .i2c0) (atEng (eng .WRITE .CHECK 0) ctl)
    let s3 := State.reset.withFetchWord 32 0x700
    let s4 := State.reset.withFetchWord 8 0x25
    ((drawPick s1).1 = .core .core0 ∧ ((drawPick s1).2.coreOf .core0).halted = false ∧
      ((drawPick s1).2.coreOf .core0).line = some (.req 0x5013 .zero) ∧
      decode .request 0x5013 = .ok (.write .i2c0 true 0x50)) ∧
    ((drawPick s2).1 = .eng .i2c0 ∧ ((drawPick s2).2.eng .i2c0).state ≠ .IDLE) ∧
    ((drawPick s3).1 = .perform .i2c0 ∧ ((drawPick s3).2.ctl .i2c0).inflight = some 0x700 ∧
      decode .dataCmd 0x700 = .ok (.cmdRead 0 true true)) ∧
    ((drawPick s4).1 = .bank ∧ (drawPick s4).2.lkaQ = [(.core0, 0x25)] ∧ decode .lockBank 0x25 = .ok (.lockClr 5)) := by
  decide

/-- The bank answers core 1; lock 31 is claimed, lock 0 is free. -/
def atBank : State := (State.reset.setLock 31 ⟨true, .zero⟩).setCur (.bank .core1)

theorem witness_LockTasReadsAndClaims :
    atBank.cur = .bank .core1 ∧ (atBank.lock 0).claimed = false ∧ (atBank.lock 31).claimed = true := by decide

theorem witness_LockClrFrees : atBank.cur = .bank .core1 ∧ (atBank.lock 31).claimed = true := by decide

theorem witness_SpinAcqTakesAFreeLock :
    let s := atCore (core false [⟨5, true⟩] .zero) .ready
    AtCore .core0 s ∧ (s.lock 31).claimed = false ∧ ∀ g ∈ (s.coreOf .core0).held, g.id ≠ 31 := by
  unfold AtCore; decide

theorem witness_SpinAcqMasksAndSpins :
    let s := atCore (core true [] .zero) .ready
    let u := (atCore (core false [] .zero) (.acqTas 0 true)).setLock 0 ⟨true, .zero⟩
    (AtCore .core0 s ∧ ∀ g ∈ (s.coreOf .core0).held, g.id ≠ 0) ∧
    (u.cur = .core .core0 ∧ (u.coreOf .core0).frame.phase = .acqTas 0 true ∧ (u.lock 0).claimed = true) := by
  unfold AtCore; decide

theorem witness_LockIdOutsideTheBankIsFatal :
    AtCore .core0 (atCore (core true [] .zero) .ready) ∧ NUM_SPINLOCKS ≤ 32 ∧ NUM_SPINLOCKS ≤ 255 := by
  unfold AtCore; decide

theorem witness_LockMisuseIsFatal :
    let s := atCore (core false [⟨31, true⟩] .zero) .ready
    let u := atCore (core true [] .zero) .ready
    AtCore .core0 s ∧ (∃ g ∈ (s.coreOf .core0).held, g.id = 31) ∧
    (∀ g, (s.coreOf .core0).held.head? = some g → g.id ≠ 5) ∧
    AtCore .core0 u ∧ ∀ g, (u.coreOf .core0).held.head? = some g → g.id ≠ 5 := by
  refine ⟨⟨rfl, rfl⟩, by decide, fun g h => ?_, ⟨rfl, rfl⟩, fun g h => ?_⟩
  · cases h; decide
  · cases h

theorem witness_SpinRelFreesTheTopGuard :
    let s := atCore (core false [⟨5, true⟩] .zero) .ready
    AtCore .core0 s ∧ (s.coreOf .core0).held = [⟨5, true⟩] := by
  unfold AtCore; decide

theorem witness_AcquireThenReleaseRestores :
    let s := atCore (core true [] .zero) .ready
    AtCore .core0 s ∧ (s.lock 5).claimed = false ∧ ∀ g ∈ (s.coreOf .core0).held, g.id ≠ 5 := by
  unfold AtCore; decide

/-- Core 0 holds lock 5 and is about to take lock 6: the scheduler picks it. -/
def holding : State :=
  pickNext (.core .core0) ((State.reset.setCore .core0
    { Core.launch false [.req 0x606 .zero] with
      held := [⟨5, true⟩], frame := ⟨[.req 0x606 .zero], 0, .acqTas 6 false⟩ }).setLock 5 ⟨true, .zero⟩)

theorem witness_EveryStepKeepsMutualExclusion :
    (holding.lkaQ = [] ∧ ((holding.coreOf .core0).claims ++ (holding.coreOf .core1).claims).Nodup ∧
      (∀ n ∈ (holding.coreOf .core0).claims ++ (holding.coreOf .core1).claims, (holding.lock n).claimed = true)) ∧
    got (fun t => (t.coreOf .core0).claims) (step holding) = some [5, 6] := by decide

/-- Core 0 is about to store 7 at address 0x10, which holds 3 by a write of its own. -/
def storing : State :=
  pickNext (.core .core0) ({ State.reset with
    mem := [(0x10, 3)], writes := [⟨0x10, 3, 0, .core0, 1, .zero⟩] }.setCore .core0
    { Core.launch true [.stb (.const 0x10) (.imm 7)] with nWrites := 1, vars := [(2, 9)] })

theorem witness_EveryStepKeepsCanonicalData :
    storing.DataInv ∧ got (fun t => t.mem) (step storing) = some [(0x10, 7)] := by
  refine ⟨⟨by decide, fun c => ?_⟩, by decide⟩
  cases c <;> decide

theorem storing_logInv : storing.LogInv := by
  refine ⟨by decide, fun a e h => ?_, by decide, by decide, by decide, fun _ h => absurd h List.not_mem_nil⟩
  rcases eq_or_ne a 0x10 with rfl | ha
  · have : some (⟨0x10, 3, 0, .core0, 1, .zero⟩ : WriteEv) = some e := by rw [← h]; decide
    cases this; decide
  · have : storing.writesOf a = [] := by
      simp [State.writesOf, storing, pickNext, State.setOracle, State.setCore, Ne.symm ha]
    simp [this] at h

theorem witness_EveryStepKeepsTheWriteLog :
    storing.LogInv ∧ got (fun t => t.writes.length) (step storing) = some 2 := ⟨storing_logInv, by decide⟩

/-- A byte with a write, one with none, and the last one; no write is announced. -/
theorem witness_OwnWritesAreReadBack :
    storing.LogInv ∧ storing.params.inMemory 0x10 = true ∧ (∀ e ∈ storing.writesOf 0x10, e.core = .core0) ∧
    storing.params.inMemory 0 = true ∧ (∀ e ∈ storing.writesOf 0, e.core = .core0) ∧
    storing.params.inMemory 0x3FF = true ∧ (∀ w ∈ storing.ahead, w.addr = 0x10 → w.core = .core0) :=
  ⟨storing_logInv, by decide⟩

/-- R61: core 1 will write 9 to the byte core 0 reads: the read's candidates are the write before it, the initial value and
that write, and the write ends the announcement. -/
theorem test_a_later_write_is_a_candidate :
    got (fun t => (readChoices .core0 0x10 t, readChoices .core1 0x10 t)) (runPick (.ahead .core1 0x10 9) storing) =
      some ([3, 0, 9], [3, 0]) ∧
    got (fun t => ((memWrite .core1 0x10 9 t).map (·.ahead), (memWrite .core0 0x10 9 t).map fun u => u.ahead.length))
      (runPick (.ahead .core1 0x10 9) storing) = some (some [], some 1) := by decide

/-- R61: core 0 has read that byte as a candidate and then released: a write of core 1 ordered after that release (it has
acquired two fences) is not the one announced; one ordered only after the fence before the read may be. -/
theorem test_a_write_ordered_after_the_read_is_not_announced :
    let w : Ahead := ⟨0, 0x10, 9, .core1, some (.core0, 1)⟩
    w.performedBy .core1 0x10 9 ⟨⟨1, 2⟩, ⟨0, 0⟩⟩ = false ∧ w.performedBy .core1 0x10 9 ⟨⟨1, 1⟩, ⟨0, 0⟩⟩ = true ∧
    got (fun t => (memRead .core0 0x10 t).map fun p => p.2.ahead)
      (runPick (.ahead .core1 0x10 9) (storing.setOracle { Oracle.free with choices := [2] })) =
      some (some [⟨0, 0x10, 9, .core1, some (.core0, 0)⟩]) := by decide

/-- Core 0 is about to release lock 5 and core 1 spins on it. -/
def handingOver : State :=
  ((storing.setCore .core0 { storing.coreOf .core0 with
      frame := { (storing.coreOf .core0).frame with phase := .relFence 5 true } }).setCore .core1
    { storing.coreOf .core1 with frame := ⟨[], 0, .acqTas 5 true⟩ }).setLock 5 ⟨true, .zero⟩

theorem handingOver_logInv : handingOver.LogInv := by
  obtain ⟨h1, h2, -⟩ := storing_logInv
  exact ⟨h1, h2, by decide, by decide, by decide, fun _ h => absurd h List.not_mem_nil⟩

theorem witness_ReleaseThenAcquireOrdersWrites :
    (handingOver.coreOf .core0).frame.phase = .relFence 5 true ∧
    (∃ s1 s2 s3 s4, exec (.spinRel 5) (handingOver.setCur (.core .core0)) = .next s1 ∧
      exec (.spinRel 5) s1 = .next s2 ∧ (s2.coreOf .core1).frame.phase = .acqTas 5 true ∧
      exec (.spinAcq 5) (s2.setCur (.core .core1)) = .next s3 ∧ exec (.spinAcq 5) s3 = .next s4) ∧
    (∃ e ∈ handingOver.writes, e.seq ≤ (handingOver.coreOf e.core).nWrites ∧
      e.before .core0 (handingOver.coreOf .core0).acqView = true) ∧
    handingOver.LogInv ∧ handingOver.params.inMemory 0x10 = true ∧
    (∀ e ∈ handingOver.writesOf 0x10, e.core = .core0) ∧ ∀ w ∈ handingOver.ahead, w.addr = 0x10 → w.core = .core1 := by
  exact ⟨rfl, ⟨_, _, _, _, rfl, rfl, rfl, rfl, rfl⟩, by decide, handingOver_logInv, by decide, by decide, by decide⟩

/-- An engine with the given frequency, at statement 0 of state `st`. -/
def baud (op : EngOp) (st : EngState) (f : Word) : State :=
  atEng { eng op st 0 with operands := ⟨f, 0, 0, 0, 0, 0⟩ } ctl

theorem witness_SetbaudAcceptsExactlyItsRange :
    (∀ f ∈ [(1144 : Word), 1145, 4237288, 4237289], AtEng .i2c0 .CHECK 0 (baud .SETBAUD .CHECK f) ∧
      ((baud .SETBAUD .CHECK f).eng .i2c0).configured = true ∧
      (baud .SETBAUD .CHECK f).params.SPKLEN_OVERFLOW = .truncate) :=
  fun _ _ => ⟨⟨rfl, rfl, rfl⟩, rfl, rfl⟩

/-- The two ends of the accepted range: their counts of V3 meet every bound. -/
theorem witness_SetbaudProgramsTheTiming :
    ∀ p ∈ [((1145 : Word), 109170, 65502, 43668, 38, 4093), (4237288, 30, 18, 12, 16, 1)],
      let s := baud .SETBAUD .CHECK p.1
      let f := (s.eng .i2c0).operands.freq.toNat
      AtEng .i2c0 .CHECK 0 s ∧ (s.eng .i2c0).configured = true ∧ Waiting .i2c0 s ∧ f ≠ 0 ∧
      p.2.1 = (125000000 + f / 2) / f ∧ p.2.2.1 = p.2.1 * 3 / 5 ∧ p.2.2.2.1 = p.2.1 - p.2.2.1 ∧
      8 ≤ p.2.2.1 ∧ p.2.2.1 ≤ 0xFFFF ∧ 8 ≤ p.2.2.2.1 ∧ p.2.2.2.1 ≤ 0xFFFF ∧
      p.2.2.2.2.1 = 125000000 * (if f < 1000000 then 300 else 120) / 1000000000 + 1 ∧
      p.2.2.2.2.1 ≤ p.2.2.1 - 2 ∧ p.2.2.2.2.2 = max 1 (p.2.2.1 / 16) ∧ s.params.SPKLEN_OVERFLOW = .truncate := by
  unfold AtEng Waiting; decide

theorem witness_SetbaudRefusesBeforeAnyWrite :
    let s := baud .SETBAUD .CHECK 5000000
    let u := atEng { eng .SETBAUD .CHECK 0 with configured := false } ctl
    let v := { baud .SETBAUD .CHECK 18310 with params := { Params.default with SPKLEN_OVERFLOW := .refuse } }
    (AtEng .i2c0 .CHECK 0 u ∧ (u.eng .i2c0).configured = false) ∧
    (AtEng .i2c0 .CHECK 0 s ∧ (s.eng .i2c0).configured = true ∧ badBaud (s.eng .i2c0).operands.freq.toNat = true ∧
      Waiting .i2c0 s) ∧
    (AtEng .i2c0 .CHECK 0 v ∧ (v.eng .i2c0).configured = true ∧ badBaud (v.eng .i2c0).operands.freq.toNat = false ∧
      v.params.SPKLEN_OVERFLOW = .refuse ∧ 256 ≤ max 1 (baudLcnt (v.eng .i2c0).operands.freq.toNat / 16)) := by
  unfold AtEng Waiting; decide

theorem witness_AcceptedCountsAreInRange : badBaud 1145 = false ∧ badBaud 4237288 = false := by decide

theorem witness_EveryStepKeepsTheCounts :
    let s := pickNext (.eng .i2c0) (baud .SETBAUD .PROGRAM 1145)
    s.CountsInv ∧ got (fun t => (t.eng .i2c0).sub) (step s) = some 1 := by
  refine ⟨fun b => ?_, by decide⟩
  constructor <;> intro _ h <;> cases b <;> cases h

theorem witness_ConfigureProgramsTheController :
    ∀ p ∈ [((1145 : Word), 109170, 65502, 43668, 38, 4093), (4237288, 30, 18, 12, 16, 1)],
      let s := baud .CONFIGURE .RESET_BLOCK p.1
      let f := (s.eng .i2c0).operands.freq.toNat
      AtEng .i2c0 .RESET_BLOCK 0 s ∧ Waiting .i2c0 s ∧ f ≠ 0 ∧
      p.2.1 = (125000000 + f / 2) / f ∧ p.2.2.1 = p.2.1 * 3 / 5 ∧ p.2.2.2.1 = p.2.1 - p.2.2.1 ∧
      8 ≤ p.2.2.1 ∧ p.2.2.1 ≤ 0xFFFF ∧ 8 ≤ p.2.2.2.1 ∧ p.2.2.2.1 ≤ 0xFFFF ∧
      p.2.2.2.2.1 = 125000000 * (if f < 1000000 then 300 else 120) / 1000000000 + 1 ∧
      p.2.2.2.2.1 ≤ p.2.2.1 - 2 ∧ p.2.2.2.2.2 = max 1 (p.2.2.1 / 16) ∧ s.params.SPKLEN_OVERFLOW = .truncate := by
  unfold AtEng Waiting; decide

/-- The greatest frequency whose spike length, 256, does not fit, under `refuse`: every other premise holds too. -/
theorem witness_ConfigureProgramsTheController_refuse :
    let s := { baud .CONFIGURE .RESET_BLOCK 18310 with params := { Params.default with SPKLEN_OVERFLOW := .refuse } }
    let f := (s.eng .i2c0).operands.freq.toNat
    AtEng .i2c0 .RESET_BLOCK 0 s ∧ Waiting .i2c0 s ∧ f ≠ 0 ∧ (125000000 + f / 2) / f = 6827 ∧ 6827 * 3 / 5 = 4096 ∧
    6827 - 4096 = 2731 ∧ 125000000 * (if f < 1000000 then 300 else 120) / 1000000000 + 1 = 38 ∧
    256 = max 1 (4096 / 16) ∧ s.params.SPKLEN_OVERFLOW = .refuse ∧
    faultOf (execTimes (.configure .i2c0) 9 s) = some (.SpklenOverflow (.eng .i2c0) .i2c0 18310 256) := by
  unfold AtEng Waiting; decide

theorem witness_ConfigureWithABadFrequencyLeavesItDisabled :
    let s := baud .CONFIGURE .RESET_BLOCK 1144
    AtEng .i2c0 .RESET_BLOCK 0 s ∧ Waiting .i2c0 s ∧ badBaud (s.eng .i2c0).operands.freq.toNat = true := by
  unfold AtEng Waiting; decide

theorem witness_BlockResetClearsTheController : AtEng .i2c0 .RESET_BLOCK 0 (baud .CONFIGURE .RESET_BLOCK 0) := by
  unfold AtEng; decide

theorem witness_AnIdleEngineAcceptsARequest :
    let s := atCore (core true [] ⟨0, 0x10, 2, 0x20, 3, 4⟩) .ready
    AtCore .core0 s ∧ (s.eng .i2c1).state = .IDLE := by
  unfold AtCore; decide

theorem witness_OverlappingRequestsAreFatal :
    let s := (atCore (core true [] .zero) .ready).setEng .i2c0 { eng .WRITE .WAIT_TX_EMPTY 0 with requester := .core1 }
    AtCore .core0 s ∧ (s.eng .i2c0).state ≠ .IDLE := by
  unfold AtCore; decide

theorem witness_ACoreWaitsForItsEngine :
    let s := atCore (core true [] .zero) (.waitEng .i2c0)
    let u := atCore (core true [] .zero) (.gotResult .BusError 0)
    (s.cur = .core .core0 ∧ (s.coreOf .core0).frame.phase = .waitEng .i2c0) ∧
    (u.cur = .core .core0 ∧ (u.coreOf .core0).frame.phase = .gotResult .BusError 0) := by decide

/-- Every clause of the entry checks, at the ends of the reserved blocks. -/
theorem witness_EntryChecksInOrder :
    let s := fun (a : Byte) (n : Nat) (c : Bool) =>
      atEng { eng .WRITE .CHECK 0 with addr := a, len := n, configured := c } ctl
    let bad := fun (a : Byte) => 0x80 ≤ a.toNat ∨ a &&& 0x78 = 0 ∨ a &&& 0x78 = 0x78
    (∀ a n c, AtEng .i2c0 .CHECK 0 (s a n c) ∧ ((s a n c).eng .i2c0).op ≠ .TRANSFER ∧ Waiting .i2c0 (s a n c)) ∧
    (∀ a ∈ [(0x00 : Byte), 0x07, 0x78, 0x7F, 0x80, 0xFF], bad a) ∧ (∀ a ∈ [(0x08 : Byte), 0x77], ¬ bad a) ∧
    ((s 0x00 0 false).eng .i2c0).configured = false ∧ ((s 0x77 0 true).eng .i2c0).len = 0 ∧
    ((s 0x08 1 true).eng .i2c0).len ≠ 0 := by
  exact ⟨fun a n c => ⟨⟨rfl, rfl, rfl⟩, by simp [eng, atEng, State.eng, State.setCur, State.setCtl, State.setEng, PerBus.get, PerBus.set], rfl⟩,
    by decide, by decide, by decide⟩

theorem witness_SetupProgramsTheAddress :
    AtEng .i2c0 .SETUP 0 (atEng (eng .WRITE .SETUP 0) ctl) ∧ AtEng .i2c0 .SETUP 0 (atEng (eng .READ .SETUP 0) ctl) := by
  unfold AtEng; decide

/-- A queue with one place left. -/
def nearlyFull : Ctl := { ctl with txq := List.replicate 15 0 }

theorem witness_WriteQueuesItsByte :
    let s := atEng (eng .WRITE .ISSUE 0) nearlyFull
    AtEng .i2c0 .ISSUE 0 s ∧ (s.eng .i2c0).ron = some true ∧
    memRead (s.eng .i2c0).requester ((s.eng .i2c0).operands.wbuf + (s.eng .i2c0).k) s = some (0, s) ∧
    (s.ctl .i2c0).txq.length < s.params.TXQ_DEPTH := by
  refine ⟨⟨rfl, rfl, rfl⟩, rfl, by decide, by decide⟩

/-- `TX_EMPTY_CTRL` at 1, at 0 (where a word in flight does not count) and unwritten. -/
theorem witness_DrainWaitPassesOnceDrained :
    let con := fun (c : Option Bool) => ({ ctl.con with txEmptyCtrl := c } : Con)
    let s := fun (c : Option Bool) => atEng (eng .WRITE .WAIT_TX_EMPTY 0) { ctl with con := con c, inflight := some 0 }
    let d := atEng (eng .WRITE .WAIT_TX_EMPTY 0) ctl
    let v := fun (c : Option Bool) =>
      atEng { eng .WRITE .WAIT_TX_EMPTY 0 with budget := true } { nearlyFull with con := con c }
    (∀ c, AtEng .i2c0 .WAIT_TX_EMPTY 0 (s c) ∧ AtEng .i2c0 .WAIT_TX_EMPTY 0 (v c) ∧
      ((s c).ctl .i2c0).con.txEmptyCtrl = c ∧ ((v c).ctl .i2c0).con.txEmptyCtrl = c ∧
      ((s c).ctl .i2c0).txq = [] ∧ ((s c).ctl .i2c0).inflight = some 0 ∧ ((s c).eng .i2c0).budget = false ∧
      ((v c).ctl .i2c0).txq ≠ [] ∧ ((v c).eng .i2c0).budget = true) ∧
    (AtEng .i2c0 .WAIT_TX_EMPTY 0 d ∧ (d.ctl .i2c0).con.txEmptyCtrl = some true ∧ (d.ctl .i2c0).txq = [] ∧
      (d.ctl .i2c0).inflight = none) := by
  exact ⟨fun _ => ⟨⟨rfl, rfl, rfl⟩, ⟨rfl, rfl, rfl⟩, rfl, rfl, rfl, rfl, rfl, List.cons_ne_nil _ _, rfl⟩,
    ⟨rfl, rfl, rfl⟩, rfl, rfl, rfl⟩

/-- R31, second case: with `TX_EMPTY_CTRL` at 0 a word in flight does not hold the poll back. -/
theorem test_tx_empty_without_control :
    [some true, some false, none].map (fun c =>
      ({ ctl with con := { ctl.con with txEmptyCtrl := c }, inflight := some 0 } : Ctl).txEmpty) =
    [some false, some true, none] := by decide

/-- After a stop, with a next byte, and past the last byte of a call without a stop. -/
theorem witness_CheckAbortReadsAndClears :
    (AtEng .i2c0 .CHECK_ABORT 0 (atEng (eng .WRITE .CHECK_ABORT 0) ctl) ∧ (eng .WRITE .CHECK_ABORT 0).k + 1 = 1) ∧
    AtEng .i2c0 .CHECK_ABORT 0 (atEng { eng .WRITE .CHECK_ABORT 0 with ns := true } { ctl with abrtSrc := 8 }) ∧
    AtEng .i2c0 .CHECK_ABORT 0 (atEng { eng .WRITE .CHECK_ABORT 0 with len := 2, ns := true } ctl) ∧
    AtEng .i2c0 .CHECK_ABORT 0 (atEng { eng .WRITE .CHECK_ABORT 0 with ns := true } ctl) := by
  unfold AtEng; decide

theorem witness_StopWaitUnderBothPolarities :
    let s := fun (bud st : Bool) (p : Polarity) =>
      { atEng { eng .WRITE .WAIT_STOP 0 with budget := bud } { ctl with stopDet := st } with
        params := { Params.default with WRITE_TIMEOUT_POLARITY := p } }
    let u := fun (n : Nat) (ab : Bool) =>
      atEng { eng .WRITE .CLEAR_STOP 0 with len := n, abort := ab } { ctl with stopDet := true }
    (∀ bud st p, AtEng .i2c0 .WAIT_STOP 0 (s bud st p)) ∧ (∀ n ab, AtEng .i2c0 .CLEAR_STOP 0 (u n ab)) ∧
    ((s false true .normalized).ctl .i2c0).stopDet = true ∧
    ((s false false .legacy_inverted).ctl .i2c0).stopDet = false ∧
    (s false false .legacy_inverted).params.WRITE_TIMEOUT_POLARITY = .legacy_inverted ∧
    ((s false false .legacy_inverted).eng .i2c0).budget = false ∧
    ((s true false .normalized).eng .i2c0).budget = true ∧
    ((u 2 true).eng .i2c0).abort = true ∧ ((u 2 false).eng .i2c0).k + 1 < ((u 2 false).eng .i2c0).len ∧
    ¬ ((u 1 false).eng .i2c0).k + 1 < ((u 1 false).eng .i2c0).len := by
  exact ⟨fun _ _ _ => ⟨rfl, rfl, rfl⟩, fun _ _ => ⟨rfl, rfl, rfl⟩, by decide⟩

theorem witness_FinishClassifiesTheOutcome :
    ∀ v ∈ [(0 : Word), 1, 8, 9, 0x10000], ∀ ab ∈ [false, true],
      let s := atEng { eng .READ .FINISH 0 with abort := ab, lastabrt := v, kabrt := 2 } ctl
      AtEng .i2c0 .FINISH 0 s ∧ (s.eng .i2c0).op = .READ ∧ Waiting .i2c0 s :=
  fun _ _ _ _ => ⟨⟨rfl, rfl, rfl⟩, rfl, rfl⟩

theorem witness_AnExpiredBudgetEndsTheCall :
    ∀ d ∈ [false, true],
      let s := fun op st sub => (atEng { eng op st sub with budget := true } ctl).setOracle
        { Oracle.free with timeouts := [d] }
      let u := s .WRITE .WAIT_TX_EMPTY 1
      let v := s .READ .WAIT_RX 2
      (u.cur = .eng .i2c0 ∧ (u.eng .i2c0).budget = true ∧ Waiting .i2c0 u ∧ (drawTimeout u).1 = d ∧
        (u.eng .i2c0).sub = 1 ∧ (u.eng .i2c0).state = .WAIT_TX_EMPTY ∧ (u.eng .i2c0).phase = .write) ∧
      ((s .WRITE .WAIT_STOP 1).eng .i2c0).state = .WAIT_STOP ∧
      (v.cur = .eng .i2c0 ∧ (v.eng .i2c0).budget = true ∧ Waiting .i2c0 v ∧ (drawTimeout v).1 = d ∧
        (v.eng .i2c0).sub = 2 ∧ (v.eng .i2c0).state = .WAIT_RX) := by
  unfold Waiting; decide

theorem witness_ReadQueuesItsCommand :
    let s := atEng (eng .READ .WAIT_SPACE 0) nearlyFull
    AtEng .i2c0 .WAIT_SPACE 0 s ∧ (s.eng .i2c0).ron = some true ∧
    (s.ctl .i2c0).txq.length < s.params.TXQ_DEPTH := by
  unfold AtEng; decide

theorem witness_ReceiveWaitTestsCountThenAbortThenBudget :
    AtEng .i2c0 .WAIT_RX 0 (atEng (eng .READ .WAIT_RX 0) { ctl with rxq := [1] }) ∧
    AtEng .i2c0 .WAIT_RX 0 (atEng (eng .READ .WAIT_RX 0) ctl) ∧
    AtEng .i2c0 .WAIT_RX 1 (atEng (eng .READ .WAIT_RX 1) { ctl with abrtSrc := 1 }) ∧
    AtEng .i2c0 .WAIT_RX 1 (atEng { eng .READ .WAIT_RX 1 with budget := true } ctl) ∧
    AtEng .i2c0 .WAIT_RX 1 (atEng (eng .READ .WAIT_RX 1) ctl) := by
  unfold AtEng; decide

/-- The last byte of the launch memory. -/
theorem witness_ReadStoresTheReceivedByte :
    let s := atEng { eng .READ .POP 0 with operands := ⟨0, 0, 0, 0x3FF, 1, 0⟩ } { ctl with rxq := [0, 5] }
    AtEng .i2c0 .POP 0 s ∧ (s.ctl .i2c0).rxq = [0, 5] ∧ s.mem.wf = true ∧
    s.params.inMemory ((s.eng .i2c0).operands.rbuf + (s.eng .i2c0).k) = true := by
  unfold AtEng; decide

theorem witness_TransferChecksThenStartsAPhase :
    let s := fun (a : Byte) (w r : Nat) (c : Bool) =>
      atEng { eng .TRANSFER .CHECK 0 with addr := a, operands := ⟨0, 0, w, 0, r, 0⟩, configured := c } ctl
    let bad := fun (a : Byte) => 0x80 ≤ a.toNat ∨ a &&& 0x78 = 0 ∨ a &&& 0x78 = 0x78
    (∀ a w r c, AtEng .i2c0 .CHECK 0 (s a w r c) ∧ Waiting .i2c0 (s a w r c)) ∧
    (∀ a ∈ [(0x00 : Byte), 0x07, 0x78, 0x80], bad a) ∧ (∀ a ∈ [(0x08 : Byte), 0x77], ¬ bad a) ∧
    ((s 0x08 0 0 false).eng .i2c0).configured = false ∧ 0 < ((s 0x08 1 0 true).eng .i2c0).operands.wlen ∧
    ((s 0x08 0 1 true).eng .i2c0).operands.wlen = 0 ∧ 0 < ((s 0x08 0 1 true).eng .i2c0).operands.rlen ∧
    ((s 0x08 0 0 true).eng .i2c0).operands.rlen = 0 := by
  exact ⟨fun _ _ _ _ => ⟨⟨rfl, rfl, rfl⟩, rfl⟩, by decide⟩

theorem witness_TransferRunsItsCalls :
    let s := fun (ph : Phase) (ab : Bool) (r : Nat) =>
      atEng { eng .TRANSFER .FINISH 0 with phase := ph, abort := ab, operands := ⟨0, 0, 1, 0, r, 0⟩ } ctl
    (∀ ph ab r, AtEng .i2c0 .FINISH 0 (s ph ab r) ∧ ((s ph ab r).eng .i2c0).op = .TRANSFER ∧
      Waiting .i2c0 (s ph ab r) ∧ ((s ph ab r).eng .i2c0).phase = ph) ∧
    ((s .write false 1).eng .i2c0).abort = false ∧ 0 < ((s .write false 1).eng .i2c0).operands.rlen ∧
    ((s .write true 1).eng .i2c0).abort = true ∧ ((s .write false 0).eng .i2c0).operands.rlen = 0 := by
  exact ⟨fun _ _ _ => ⟨⟨rfl, rfl, rfl⟩, rfl, rfl, rfl⟩, by decide⟩

/-- The first address past the launch memory. -/
theorem witness_NoStepOutsideTheLaunchMemory :
    let s := atEng { eng .WRITE .ISSUE 0 with operands := ⟨0, 0x400, 1, 0, 0, 0⟩ } ctl
    let u := atEng { eng .READ .POP 1 with operands := ⟨0, 0, 0, 0x400, 1, 0⟩ } ctl
    (s.cur = .eng .i2c0 ∧ (s.eng .i2c0).state = .ISSUE ∧ (s.eng .i2c0).sub = 0 ∧
      s.params.inMemory ((s.eng .i2c0).operands.wbuf + (s.eng .i2c0).k) = false) ∧
    (u.cur = .eng .i2c0 ∧ (u.eng .i2c0).state = .POP ∧ (u.eng .i2c0).sub ≠ 0 ∧
      u.params.inMemory ((u.eng .i2c0).operands.rbuf + (u.eng .i2c0).k) = false) := by decide

/-- An idle, programmed controller that a CONFIGURE has left enabled, and a call of two bytes on it. -/
def twoBytes (op : EngOp) (o : Oracle) : State :=
  (atEng { eng op .CHECK 0 with len := 2, operands := ⟨0, 0x10, 2, 0x20, 2, 0⟩ } { ctl with tar := none }).setOracle o

theorem witness_AcknowledgedWriteSendsEveryByte :
    let s := twoBytes .WRITE { Oracle.free with acks := [true, true, true] }
    let e := s.eng .i2c0
    let x := s.ctl .i2c0
    let ds : List Byte := [0, 0]
    e.op = .WRITE ∧ e.state = .CHECK ∧ e.configured = true ∧ badAddress e.addr = false ∧ e.len = ds.length ∧
    ds ≠ [] ∧ e.ns = false ∧ e.ron ≠ none ∧ Waiting .i2c0 s ∧ 1 ≤ s.params.TXQ_DEPTH ∧
    x.con = ⟨some true, some 2, some false, some true, some true⟩ ∧ x.busOpen = false ∧ x.pendingStop = false ∧
    x.stopDet = false ∧ x.abrtSrc = 0 ∧
    (∀ k d, ds[k]? = some d → s.params.inMemory (e.operands.wbuf + k) = true ∧
      readChoices e.requester (e.operands.wbuf + k) s = [d]) ∧
    s.oracle.acks = List.replicate (ds.length + 1) true ++ [] := by
  refine ⟨rfl, rfl, rfl, by decide, rfl, by decide, rfl, by decide, rfl, by decide, rfl, rfl, rfl, rfl, rfl, ?_, rfl⟩
  rintro (_ | _ | k) d h
  · cases h; decide
  · cases h; decide
  · simp at h

theorem witness_AcknowledgedReadStoresEveryByte :
    let s := twoBytes .READ { Oracle.free with acks := [true], bytes := [0x12, 0x34] }
    let e := s.eng .i2c0
    let x := s.ctl .i2c0
    let ds : List Byte := [0x12, 0x34]
    e.op = .READ ∧ e.state = .CHECK ∧ e.configured = true ∧ badAddress e.addr = false ∧ e.len = ds.length ∧
    ds ≠ [] ∧ e.ns = false ∧ e.ron ≠ none ∧ Waiting .i2c0 s ∧ 1 ≤ s.params.TXQ_DEPTH ∧ 1 ≤ s.params.RXQ_DEPTH ∧
    s.mem.wf = true ∧ x.con = ⟨some true, some 2, some false, some true, some true⟩ ∧ x.busOpen = false ∧
    x.pendingStop = false ∧ (∀ k, k < ds.length → s.params.inMemory (e.operands.rbuf + k) = true) ∧
    s.oracle.acks = true :: [] ∧ s.oracle.bytes = ds ++ [] := by
  exact ⟨rfl, rfl, rfl, by decide, rfl, by decide, rfl, by decide, rfl, by decide, by decide, by decide, rfl, rfl, rfl,
    by decide, rfl, rfl⟩

/-- Each clause's draws: on the open bus in the same direction, and from an idle bus. -/
theorem witness_CmdWritePerformsItsCommand :
    let op := { ctl with busOpen := true, dir := .W }
    let ok := fun s => s.cur = .ctl .i2c0 ∧ (s.ctl .i2c0).Runs ∧ (s.ctl .i2c0).inflight ≠ none ∧
      (s.ctl .i2c0).tar = some 0x50
    (∀ a b, ok (atCtl op [a, b] []) ∧ ok (atCtl ctl [a, b] [])) ∧ op.dir = .W ∧ ctl.busOpen = false ∧
    ∀ a ∈ [false, true], ∀ b ∈ [false, true],
      (drawAck (atCtl ctl [a, b] [])).1 = a ∧ (drawAck (drawAck (atCtl ctl [a, b] [])).2).1 = b := by
  exact ⟨fun a b => ⟨⟨rfl, ⟨rfl, rfl, rfl, rfl⟩, Option.some_ne_none 0, rfl⟩,
    rfl, ⟨rfl, rfl, rfl, rfl⟩, Option.some_ne_none 0, rfl⟩, rfl, rfl, by decide⟩

theorem witness_CmdReadPerformsItsCommand :
    let op := { ctl with busOpen := true, dir := .R, rxq := List.replicate 15 0 }
    let ok := fun s => s.cur = .ctl .i2c0 ∧ (s.ctl .i2c0).Runs ∧ (s.ctl .i2c0).inflight ≠ none ∧
      (s.ctl .i2c0).rxq.length < s.params.RXQ_DEPTH ∧ (s.ctl .i2c0).tar = some 0x50
    (∀ a d, ok (atCtl op [a] [d]) ∧ ok (atCtl ctl [a] [d])) ∧ op.dir = .R ∧ ctl.busOpen = false ∧
    ∀ a ∈ [false, true], (drawAck (atCtl ctl [a] [9])).1 = a := by
  exact ⟨fun a d => ⟨⟨rfl, ⟨rfl, rfl, rfl, rfl⟩, Option.some_ne_none 0, show 15 < 16 by decide, rfl⟩,
    rfl, ⟨rfl, rfl, rfl, rfl⟩, Option.some_ne_none 0, show 0 < 16 by decide, rfl⟩, rfl, rfl, by decide⟩

theorem witness_ADisabledControllerPerformsNothing :
    let s := atCtl { ctl with en := some false } [] []
    let u := atCtl { ctl with rxq := List.replicate 16 0 } [] []
    (s.cur = .ctl .i2c0 ∧ (s.ctl .i2c0).en ≠ some true) ∧
    ((s.setCtl .i2c0 ctl).cur = .ctl .i2c0 ∧ ((s.setCtl .i2c0 ctl).ctl .i2c0).inflight = none) ∧
    (u.cur = .ctl .i2c0 ∧ u.params.RXQ_DEPTH ≤ (u.ctl .i2c0).rxq.length) := by decide

theorem witness_LoadAndStopOfTheController :
    let x := { ctl with txq := [0x210, 0x220] }
    (x.en = some true ∧ x.con.masterMode = some true ∧ x.con.restartEn = some true ∧ x.con.addr10Master = some false ∧
      x.inflight = none ∧ x.pendingStop = false ∧ x.txq ≠ []) ∧
    ({ x with pendingStop := true }).pendingStop = true := by decide

theorem witness_OtherAbortNeedsACommandInFlight :
    let s := atCtl ctl [] []
    (s.ctl .i2c0).en = some true ∧ (s.ctl .i2c0).con.masterMode = some true ∧ (s.ctl .i2c0).con.restartEn = some true ∧
    (s.ctl .i2c0).con.addr10Master = some false ∧ (s.ctl .i2c0).inflight ≠ none ∧ s.params.OTHER_ABORTS = true := by
  decide

/-- R102: the value drawn goes to the abort source, beside the extra bits. -/
theorem test_other_abort :
    got (fun t => ((t.ctl .i2c0).abrtSrc, (t.ctl .i2c0).inflight, (t.ctl .i2c0).trace))
      (runPick (.otherAbort .i2c0) ((atCtl ctl [] []).setOracle
        { Oracle.free with aborts := [⟨7, 0x1000⟩], extras := [0x10] })) = some (0x1090, none, []) := by decide

theorem witness_EveryLaunchMeetsTheInvariants :
    Launch.default.mem.wf = true ∧ Launch.default.params.wf = true ∧
    ({ Launch.default.params with TXQ_DEPTH := 1, RXQ_DEPTH := 1 } : Params).wf = true := by decide

/-- The launch state meets every invariant. -/
theorem reset_meets_the_invariants :
    State.reset.DataInv ∧ State.reset.LogInv ∧ State.reset.MutexInv ∧ State.reset.FifoInv ∧ State.reset.AddrInv ∧
    State.reset.CountsInv ∧ State.reset.WrittenInv := by
  refine ⟨⟨rfl, fun c => by cases c <;> rfl⟩, ⟨rfl, fun _ _ h => (by cases h), by decide, by decide, by decide, fun _ h => absurd h List.not_mem_nil⟩,
    ⟨rfl, by decide, by decide⟩, ⟨by decide, fun b => ?_⟩,
    fun b => ?_, fun b => ?_, fun b => ?_⟩ <;> cases b <;>
    simp [State.reset, State.launch, State.eng, State.ctl, PerBus.get, Engine.reset, Ctl.reset, Con.unwritten,
      Engine.txqDrained, Engine.pastTar, Engine.inCall, Launch.default, Params.default]

theorem witness_InstancesAreIsolated :
    BusId.i2c1 ≠ .i2c0 ∧ Pick.perform .i2c0 ∈ Pick.eng .i2c0 :: ctlPicks .i2c0 ∧
    Pick.eng .i2c0 ∈ Pick.eng .i2c0 :: ctlPicks .i2c0 := by decide

/-- A pending stop, and the scheduler's next pick takes it. -/
def stopping : State :=
  pickNext (.stop .i2c0) (State.reset.setCtl .i2c0 { ctl with pendingStop := true, abrtSrc := 1 })

theorem witness_ParametersConfiguredAndTraceOnlyGrow :
    got (fun t => (t.ctl .i2c0).trace) (step stopping) = some [.STOP] := by decide

theorem witness_AbortBitsStayUntilReadOrReset :
    let s := pickNext (.eng .i2c0) (atEng (eng .WRITE .CHECK_ABORT 0) { ctl with abrtSrc := 9 })
    (stopping.ctl .i2c0).abrtSrc.getLsbD 0 = true ∧ got (fun t => (t.ctl .i2c0).abrtSrc) (step stopping) = some 1 ∧
    (s.ctl .i2c0).abrtSrc.getLsbD 3 = true ∧ s.pick = .eng .i2c0 ∧
    got (fun t => (t.ctl .i2c0).abrtSrc) (step s) = some 0 := by decide

/-- An engine about to queue a word into the last place, and one about to take the only received byte. -/
theorem witness_FifoFaultsAreUnreachable :
    ∀ s ∈ [pickNext (.eng .i2c0) (atEng (eng .WRITE .ISSUE 1) nearlyFull),
        pickNext (.eng .i2c0) (atEng (eng .READ .POP 0) { ctl with rxq := [7] })],
      s.FifoInv ∧ (got (fun _ => ()) (step s)).isSome = true := by
  simp only [List.forall_mem_cons, List.not_mem_nil, false_imp_iff, implies_true, and_true]
  refine ⟨⟨⟨by decide, fun b => ?_⟩, by decide⟩, ⟨by decide, fun b => ?_⟩, by decide⟩ <;> cases b <;>
    unfold Engine.txqDrained <;> decide

theorem witness_NothingUnwrittenIsRead :
    let s := pickNext (.eng .i2c0) (atEng (eng .WRITE .ISSUE 1) ctl)
    s.WrittenInv ∧ (got (fun _ => ()) (step s)).isSome = true := by
  refine ⟨fun b => ?_, by decide⟩
  cases b <;> unfold Engine.pastTar Engine.inCall Engine.configuring <;> decide

theorem witness_OnlyLegalAddressesReachTheBus :
    let s := pickNext (.eng .i2c0) (atEng { eng .WRITE .SETUP 1 with addr := 0x77 } { ctl with en := some false })
    s.AddrInv ∧ got (fun t => (t.ctl .i2c0).tar) (step s) = some (some 0x77) := by
  refine ⟨fun b => ⟨?_, fun a h => ?_, fun a rw h => ?_⟩, by decide⟩
  · cases b <;> decide
  · cases b
    · cases h; unfold LegalTarget; decide
    · cases h
  · cases b <;> cases h

theorem witness_AMaskedCoreTakesNoHandler :
    let s := atCore (core true [] .zero) (.waitEng .i2c0)
    let u := State.reset.setCore .core0
      { Core.launch false [] with frame := ⟨[], 0, .ready⟩, saved := [⟨[.halt], 0, .waitEng .i2c0⟩] }
    ((u.coreOf .core0).ie = false) ∧ ((s.coreOf .core0).ie = true ∧ (s.coreOf .core0).halted = false) ∧
    ((u.coreOf .core0).line = none ∧ (u.coreOf .core0).halted = false ∧
      (u.coreOf .core0).saved = ⟨[.halt], 0, .waitEng .i2c0⟩ :: []) := by decide

/-! ## A run with a pending stop -/

/-- Nothing has a step left: both cores have halted with interrupts masked, both engines are idle, no controller may run a
command or has a stop to complete. -/
def Quiet (s : State) : Prop :=
  (∀ b, (s.eng b).state = .IDLE ∧ (s.ctl b).canRun = false ∧ (s.ctl b).inflight = none ∧ (s.ctl b).pendingStop = false) ∧
    (∀ c, (s.coreOf c).halted = true ∧ (s.coreOf c).ie = false) ∧ s.lkaQ = []

theorem quiet_drawPick {s : State} (h : Quiet s) : Quiet (drawPick s).2 := by
  unfold drawPick; split <;> exact h

theorem quiet_runPick {s : State} (h : Quiet s) (p : Pick) : ∃ t, runPick p s = .next t ∧ Quiet t := by
  obtain ⟨hb, hc, hl⟩ := h
  have q : Quiet s := ⟨hb, hc, hl⟩
  cases p with
  | core c => exact ⟨s, by simp [runPick, coreStep, (hc c).1, noStep], q⟩
  | irq c => exact ⟨s.setCur (.core c), by simp [runPick, irqStep, (hc c).2, noStep], q⟩
  | eng b => exact ⟨s, by simp [runPick, engStep, (hb b).1, noStep], q⟩
  | load b => exact ⟨s.setCur (.ctl b), by simp [runPick, ctlLoad, hb b, noStep], q⟩
  | perform b => exact ⟨s, by simp [runPick, performStep, hb b, noStep], q⟩
  | stop b => exact ⟨s.setCur (.ctl b), by simp [runPick, ctlStop, hb b, noStep], q⟩
  | otherAbort b =>
    exact ⟨s.setCur (.ctl b), by simp [runPick, ctlOtherAbort, hb b, noStep], q⟩
  | bank => exact ⟨s, by simp [runPick, bankStep, hl, noStep], q⟩
  | ahead c a v =>
    simp only [runPick, announce]
    split <;> exact ⟨_, rfl, hb, hc, hl⟩

theorem quiet_step {s : State} (h : Quiet s) : ∃ t, step s = .next t ∧ Quiet t := quiet_runPick (quiet_drawPick h) _

/-- The quiet machine with a pending stop, which the scheduler takes first. -/
def lastStop : State :=
  pickNext (.stop .i2c0) (((State.reset.setCtl .i2c0 { Ctl.reset with pendingStop := true }).setCore .core0
    { Core.launch false [] with halted := true }).setCore .core1 { Core.launch false [] with halted := true })

def after : Out → State → State
  | .next t, _ => t
  | .fault _, s => s
  | .refused _, s => s

/-- Its run, and then quiet for ever. -/
def stopRun : Nat → State
  | 0 => lastStop
  | n + 1 => after (step (stopRun n)) (stopRun n)

theorem lastStop_step : ∃ t, step lastStop = .next t ∧ Quiet t := by
  refine ⟨_, rfl, ?_, ?_, rfl⟩
  · intro b; cases b <;> exact ⟨rfl, rfl, rfl, rfl⟩
  · intro c; cases c <;> exact ⟨rfl, rfl⟩

theorem stopRun_quiet (n : Nat) : Quiet (stopRun (n + 1)) := by
  induction n with
  | zero =>
    obtain ⟨t, h, hq⟩ := lastStop_step
    simpa [stopRun, h, after] using hq
  | succ n ih =>
    obtain ⟨t, h, hq⟩ := quiet_step ih
    rw [stopRun, h]
    exact hq

/-- The stop is taken, and afterwards no step of a controller is enabled. -/
theorem witness_UnderBusProgressAPendingStopEnds :
    IsRun stopRun ∧ BusProgress .i2c0 stopRun ∧ ((stopRun 0).ctl .i2c0).pendingStop = true := by
  refine ⟨fun n => ?_, fun p _ n h => ?_, rfl⟩
  · have : ∃ t, step (stopRun n) = .next t := by
      cases n with
      | zero => exact ⟨_, lastStop_step.choose_spec.1⟩
      | succ n => exact ⟨_, (quiet_step (stopRun_quiet n)).choose_spec.1⟩
    obtain ⟨t, ht⟩ := this
    rw [stopRun, ht]
    rfl
  · have hq := stopRun_quiet n
    have hp := h (n + 1) (Nat.le_succ n)
    cases p <;> simp [ctlEnabled, hq.1] at hp

end Sys2Proof.Tests
end

section
/-! SUPPORT. What the agent the scheduler picks runs (R11, R57): the decoder on the two ports where no word is illegal, one law
for each agent's step that finds an instruction, and obligation O5. -/

namespace Sys2Proof

/-! ## The decoder on the ports where no word is illegal -/

/-- R52, R71: the 32-bit `DATA_CMD` write of a command word carries the whole word. -/
@[simp] theorem decode_dataCmd_setWidth (w : CmdWord) : decode .dataCmd (w.setWidth 32) = .ok (decodeCmdw w) := by
  have hw : (w.setWidth 32).setWidth 11 = w := by simp
  rw [decode, hw]

/-- R72: the 32-bit bank access of an LKA word carries the whole word. -/
@[simp] theorem decode_lockBank_setWidth (w : LkaWord) : decode .lockBank (w.setWidth 32) = .ok (decodeLka w) := by
  have hw : (w.setWidth 32).setWidth 6 = w := by simp
  rw [decode, hw]

namespace Machine

open Sys2Proof.Config

/-! ## An agent that finds an instruction runs it -/

/-- R13: a running core at a legal request. -/
theorem coreStep_of_request {c : CoreId} {q : Word} {o : Operands} {i : Instr} {s : State}
    (hrun : (s.coreOf c).halted = false) (hline : (s.coreOf c).line = some (.req q o))
    (hdec : decode .request q = .ok i) : coreStep c s = exec i (s.setCur (.core c)) := by
  have hq : decodeErq q = .ok i := hdec
  simp [coreStep, hrun, hline, hq]

/-- R13, R17: an engine that has a request. -/
theorem engStep_of_ne_idle {b : BusId} {s : State} (h : (s.eng b).state ≠ .IDLE) :
    engStep b s = exec ((s.eng b).instr b) (s.setCur (.eng b)) := if_neg h

/-- R89: a controller with a command in flight. -/
theorem performStep_of_inflight {b : BusId} {w : CmdWord} {s : State} (h : (s.ctl b).inflight = some w) :
    performStep b s = exec (decodeCmdw w) (s.setCur (.ctl b)) := by simp only [performStep, h]

/-- R13: the bank with an access at its port, which it takes off. -/
theorem bankStep_of_access {c : CoreId} {w : LkaWord} {r : List (CoreId × LkaWord)} {s : State}
    (h : s.lkaQ = (c, w) :: r) : bankStep s = exec (decodeLka w) ((s.setLkaQ r).setCur (.bank c)) := by
  simp only [bankStep, h]

/-- R11: a step is the step of the pick drawn. -/
theorem step_of_drawPick {s s0 : State} {p : Pick} (h : drawPick s = (p, s0)) : step s = runPick p s0 := by
  rw [step, h]

/-- Settles O5: the pick is drawn, and each agent's law names the instruction it finds. -/
theorem stepRunsTheDecodedInstruction : Obligations.StepRunsTheDecodedInstruction := by
  intro s s0
  refine ⟨fun c q o i hpick hrun hline hdec => ?core, fun b hpick hbusy => ?engine,
    fun b w i hpick hflight hdec => ?controller, fun c w r i hpick hport hdec => ?bank⟩
  case core =>
    rw [step_of_drawPick hpick]
    exact coreStep_of_request hrun hline hdec
  case engine =>
    rw [step_of_drawPick hpick]
    exact engStep_of_ne_idle hbusy
  case controller =>
    obtain rfl : decodeCmdw w = i := by simpa using hdec
    rw [step_of_drawPick hpick]
    exact performStep_of_inflight hflight
  case bank =>
    obtain rfl : decodeLka w = i := by simpa using hdec
    rw [step_of_drawPick hpick]
    exact bankStep_of_access hport

end Machine

end Sys2Proof
end

section
/-! SUPPORT. What one step can do to a bus's engine and controller: each state function of the engine and each step of the
controller is run once here, into a relation with one constructor per edge; the invariants are then read off the edges. -/

namespace Sys2Proof.Machine

open Sys2Proof.Config

/-! ## Outcomes -/

/-- The outcome is a next state with `P` or a fatal with `Q`. -/
def Meets (P : State → Prop) (Q : Fault → Prop) : Out → Prop
  | .next t => P t
  | .fault f => Q f
  | .refused _ => False

theorem Meets.mono {P P' : State → Prop} {Q Q' : Fault → Prop} {o : Out} (h : Meets P Q o) (hP : ∀ t, P t → P' t)
    (hQ : ∀ f, Q f → Q' f) : Meets P' Q' o :=
  match o, h with
  | .next _, h => hP _ h
  | .fault _, h => hQ _ h

theorem Meets.next {P : State → Prop} {Q : Fault → Prop} {o : Out} {t : State} (h : Meets P Q o) (ho : o = .next t) : P t := by
  subst ho; exact h
theorem Meets.fault {P : State → Prop} {Q : Fault → Prop} {o : Out} {f : Fault} (h : Meets P Q o) (ho : o = .fault f) : Q f := by
  subst ho; exact h

/-! ## Running one bus's part of a step -/

/-- The parameters and both buses are as before. -/
def SameParts (s t : State) : Prop := t.params = s.params ∧ t.bus = s.bus

theorem SameParts.refl (s : State) : SameParts s s := ⟨rfl, rfl⟩
theorem SameParts.trans {s t u : State} (h : SameParts s t) (g : SameParts t u) : SameParts s u :=
  ⟨g.1.trans h.1, g.2.trans h.2⟩
theorem SameParts.eng {s t : State} (h : SameParts s t) (b : BusId) : t.eng b = s.eng b := by
  simp only [State.eng, h.2]
theorem SameParts.ctl {s t : State} (h : SameParts s t) (b : BusId) : t.ctl b = s.ctl b := by
  simp only [State.ctl, h.2]

theorem memRead_same {c : CoreId} {a : Nat} {d : Byte} {s s1 : State} (h : memRead c a s = some (d, s1)) :
    SameParts s s1 := by
  obtain ⟨o, l, rfl⟩ := memRead_state h
  exact ⟨rfl, rfl⟩
theorem memWrite_same {c : CoreId} {a : Nat} {v : Byte} {s s1 : State} (h : memWrite c a v s = some s1) :
    SameParts s s1 := by
  cases hin : s.params.inMemory a
  · rw [memWrite_out hin] at h
    cases h
  · rw [memWrite_in hin] at h
    cases h
    exact ⟨rfl, rfl⟩

/-- `t` is `s` but that bus `b` has engine `e` and controller `x`, as far as the parameters and the buses go. -/
structure Becomes (b : BusId) (s : State) (e : Engine) (x : Ctl) (t : State) : Prop where
  params : t.params = s.params
  eng : t.eng b = e
  ctl : t.ctl b = x
  other : SameOtherBus b s t

section Becomes

variable {b : BusId} {s t : State} {e : Engine} {x : Ctl}

theorem Becomes.refl (b : BusId) (s : State) : Becomes b s (s.eng b) (s.ctl b) s :=
  ⟨rfl, rfl, rfl, fun _ _ => ⟨rfl, rfl⟩⟩

theorem Becomes.trans {u : State} {e' : Engine} {x' : Ctl} (h : Becomes b s e x t) (g : Becomes b t e' x' u) :
    Becomes b s e' x' u :=
  ⟨g.params.trans h.params, g.eng, g.ctl, fun b' hb =>
    ⟨(g.other b' hb).1.trans (h.other b' hb).1, (g.other b' hb).2.trans (h.other b' hb).2⟩⟩

/-- Whose step it is does not matter. -/
theorem Becomes.of_setCur {a : Agent} (h : Becomes b (s.setCur a) e x t) : Becomes b s e x t :=
  ⟨h.params, h.eng, h.ctl, h.other⟩

theorem Becomes.setEng (h : Becomes b s e x t) (e' : Engine) : Becomes b s e' x (t.setEng b e') :=
  ⟨h.params, by simp, by simp [h.ctl], fun b' hb =>
    ⟨by rw [State.eng_setEng_ne _ _ hb, (h.other b' hb).1], by rw [State.ctl_setEng, (h.other b' hb).2]⟩⟩

theorem Becomes.setCtl (h : Becomes b s e x t) (y : Ctl) : Becomes b s e y (t.setCtl b y) :=
  ⟨h.params, by simp [h.eng], by simp, fun b' hb =>
    ⟨by rw [State.eng_setCtl, (h.other b' hb).1], by rw [State.ctl_setCtl_ne _ _ hb, (h.other b' hb).2]⟩⟩

/-- Cores, locks, memory and inputs are no part of it. -/
theorem Becomes.ofSame {u : State} (h : Becomes b s e x t) (hs : SameParts t u) : Becomes b s e x u :=
  ⟨hs.1.trans h.params, (hs.eng b).trans h.eng, (hs.ctl b).trans h.ctl, fun b' hne =>
    ⟨(hs.eng b').trans (h.other b' hne).1, (hs.ctl b').trans (h.other b' hne).2⟩⟩

theorem Becomes.setCore (h : Becomes b s e x t) (c : CoreId) (k : Core) : Becomes b s e x (t.setCore c k) :=
  h.ofSame ⟨rfl, rfl⟩

theorem Becomes.setOracle (h : Becomes b s e x t) (o : Oracle) : Becomes b s e x (t.setOracle o) := h.ofSame ⟨rfl, rfl⟩

theorem Becomes.goto (h : Becomes b s e x t) (st : EngState) (sub : Nat) :
    Becomes b s { e with state := st, sub := sub } x (goto b st sub t) := by
  obtain rfl := h.eng
  exact h.setEng _

theorem Becomes.setRon (h : Becomes b s e x t) (r : Option Bool) :
    Becomes b s { e with ron := r } x (t.setEng b { t.eng b with ron := r }) := by
  obtain rfl := h.eng
  exact h.setEng _

theorem Becomes.setByte (h : Becomes b s e x t) (d : Byte) :
    Becomes b s { e with byte := d } x (t.setEng b { t.eng b with byte := d }) := by
  obtain rfl := h.eng
  exact h.setEng _

end Becomes

/-! ## The registers an engine step can leave -/

/-- What a disable leaves (R104). -/
def Ctl.disabled (p : Params) (x : Ctl) : Ctl :=
  { x with
    en := some false
    txq := []
    rxq := []
    inflight := none
    pendingStop := x.pendingStop || (p.DISABLE_ENDS_TRANSACTION && x.busOpen) }

/-- What one register write of SETBAUD for frequency `f` can leave (R132). -/
inductive BaudWrite (p : Params) (f : Nat) (x : Ctl) : Ctl → Prop
  | refused : BaudWrite p f x x
  | disable : BaudWrite p f x (x.disabled p)
  | high (h : badBaud f = false) : BaudWrite p f x { x with fsHcnt := some (BitVec.ofNat 16 (baudHcnt f)) }
  | low (h : badBaud f = false) : BaudWrite p f x { x with fsLcnt := some (BitVec.ofNat 16 (baudLcnt f)) }
  | settings (spk : Option (BitVec 8)) (hold : Option (BitVec HOLD_WIDTH)) (speed : Option (BitVec 2))
      (en : Option Bool) :
      BaudWrite p f x { x with fsSpklen := spk, txHold := hold, con := { x.con with speed := speed }, en := en }

/-! ## The edges of the engine -/

/-- The states in which a failed poll is repeated (R143). -/
def Engine.polls (e : Engine) : Prop :=
  e.state = .WAIT_TX_EMPTY ∨ e.state = .WAIT_STOP ∨ e.state = .WAIT_SPACE ∨ e.state = .WAIT_RX

/-- The states in which a request or a call can end. -/
def Engine.mayEnd (e : Engine) : Prop := e.state = .CHECK ∨ e.state = .FINISH ∨ e.polls

/-- Under parameters `p`, an engine `e` with controller `x` can become the two last arguments in one step (R17, R57). -/
inductive EngMove (p : Params) (e : Engine) (x : Ctl) : Engine → Ctl → Prop
  | stay : EngMove p e x e x
  | poll (sub : Nat) (h : e.polls) : EngMove p e x { e with sub := sub } x
  | returned (r : Result) (idx : Nat) (ron : Option Bool) (h : e.mayEnd) (hron : ron = e.ron ∨ ron = some e.ns) :
      EngMove p e x { e with state := .IDLE, sub := 0, ron := ron, result := r, resultIndex := idx } x
  | callStarted (ph : Phase) (len : Nat) (ron : Option Bool) (h : e.mayEnd) (hron : ron = e.ron ∨ ron = some e.ns) :
      EngMove p e x
        { e with
          state := .CHECK, sub := 1, ron := ron, phase := ph, len := len, k := 0, ns := false
          budget := budgetOf e.operands.tmo } x
  | checked (h : e.state = .CHECK) (hc : e.configured = true) (ha : badAddress e.addr = false) :
      EngMove p e x { e with state := .SETUP, sub := 0 } x
  | setupDisable (h : e.state = .SETUP) (h0 : e.sub = 0) :
      EngMove p e x { e with state := .SETUP, sub := 1 } (x.disabled p)
  | setupTar (h : e.state = .SETUP) (h1 : e.sub = 1) :
      EngMove p e x { e with state := .SETUP, sub := 2 }
        (if x.en = some true then x else { x with tar := some (e.addr.setWidth 7) })
  | setupEnable (h : e.state = .SETUP) (h2 : e.sub = 2) :
      EngMove p e x { e with state := .SETUP, sub := 3 } { x with en := some true }
  | setupDone (first : EngState) (h : e.state = .SETUP) (h3 : 3 ≤ e.sub) (hf : first = .ISSUE ∨ first = .WAIT_SPACE) :
      EngMove p e x { e with state := first, sub := 0, abort := false, lastabrt := 0, kabrt := 0, k := 0 } x
  | fetched (d : Byte) (h : e.state = .ISSUE) : EngMove p e x { e with state := .ISSUE, sub := 1, byte := d } x
  | issued (wait : EngState) (w : CmdWord) (h : e.state = .ISSUE) (hw : wait = .WAIT_TX_EMPTY ∨ wait = .WAIT_RX)
      (hroom : x.txq.length < p.TXQ_DEPTH) :
      EngMove p e x { e with state := wait, sub := 0 } { x with txq := x.txq ++ [w] }
  | drained (h : e.state = .WAIT_TX_EMPTY) (he : x.txq = []) :
      EngMove p e x { e with state := .CHECK_ABORT, sub := 0 } x
  | abortChecked (st : EngState) (k : Nat) (ab : Bool) (last : Word) (kab : Nat) (h : e.state = .CHECK_ABORT)
      (hs : st = .WAIT_STOP ∨ st = .ISSUE ∨ st = .FINISH) :
      EngMove p e x { e with state := st, sub := 0, k := k, abort := ab, lastabrt := last, kabrt := kab }
        { x with abrtSrc := 0 }
  | stopSeen (h : e.state = .WAIT_STOP) : EngMove p e x { e with state := .CLEAR_STOP, sub := 0 } x
  | stopCleared (st : EngState) (k : Nat) (h : e.state = .CLEAR_STOP) (hs : st = .ISSUE ∨ st = .FINISH) :
      EngMove p e x { e with state := st, sub := 0, k := k } { x with stopDet := false }
  | space (h : e.state = .WAIT_SPACE) (hroom : x.txq.length < p.TXQ_DEPTH) :
      EngMove p e x { e with state := .ISSUE, sub := 0 } x
  | byteReady (h : e.state = .WAIT_RX) (hb : x.rxq ≠ []) : EngMove p e x { e with state := .POP, sub := 0 } x
  | rxAbortRead (st : EngState) (sub : Nat) (ab : Bool) (last : Word) (kab : Nat) (h : e.state = .WAIT_RX)
      (h1 : e.sub = 1) (hs : st = .WAIT_RX ∨ st = .FINISH) :
      EngMove p e x { e with state := st, sub := sub, abort := ab, lastabrt := last, kabrt := kab }
        { x with abrtSrc := 0 }
  | popped (d : Byte) (r : List Byte) (h : e.state = .POP) (hq : x.rxq = d :: r) :
      EngMove p e x { e with state := .POP, sub := 1, byte := d } { x with rxq := r }
  | stored (st : EngState) (k : Nat) (h : e.state = .POP) (hs : st = .WAIT_SPACE ∨ st = .FINISH) :
      EngMove p e x { e with state := st, sub := 0, k := k } x
  | blockReset (h : e.state = .RESET_BLOCK) :
      EngMove p e x { e with state := .RESET_BLOCK, sub := 1 } { Ctl.reset with trace := x.trace }
  | nowConfigured (h : e.state = .RESET_BLOCK) (ho : e.op = .CONFIGURE) :
      EngMove p e x { e with state := .PROGRAM, sub := 0, configured := true } x
  | programDisable (h : e.state = .PROGRAM) (ho : e.op = .CONFIGURE) (h0 : e.sub = 0) :
      EngMove p e x { e with state := .PROGRAM, sub := 1 } (x.disabled p)
  | programRon (h : e.state = .PROGRAM) (ho : e.op = .CONFIGURE) (h1 : e.sub = 1) :
      EngMove p e x { e with state := .PROGRAM, sub := 2, ron := some false } x
  | programCon (h : e.state = .PROGRAM) (ho : e.op = .CONFIGURE) (h2 : e.sub = 2) :
      EngMove p e x { e with state := .PROGRAM, sub := 3 }
        (if x.en = some true then x
          else { x with con := { x.con with
            masterMode := some true, addr10Master := some false, restartEn := some true, txEmptyCtrl := some true } })
  | programRest (st : EngState) (sub : Nat) (tl rl : Option Word) (dma : DmaCr) (h : e.state = .PROGRAM)
      (ho : e.op = .CONFIGURE) (h3 : 3 ≤ e.sub) (hs : (st = .PROGRAM ∧ 4 ≤ sub) ∨ st = .FINISH) :
      EngMove p e x { e with state := st, sub := sub } { x with txTl := tl, rxTl := rl, dmaCr := dma }
  | baudChecked (st : EngState) (sub : Nat)
      (h : (e.state = .CHECK ∧ e.op = .SETBAUD ∧ st = .PROGRAM) ∨ (e.state = .FINISH ∧ st = .FINISH)) :
      EngMove p e x { e with state := st, sub := sub } x
  | baudWritten (st : EngState) (sub : Nat) (y : Ctl)
      (h : (e.state = .PROGRAM ∧ e.op = .SETBAUD ∧ (st = .PROGRAM ∨ st = .FINISH)) ∨
        (e.state = .FINISH ∧ st = .FINISH))
      (hw : BaudWrite p e.operands.freq.toNat x y) : EngMove p e x { e with state := st, sub := sub } y

/-- The fatals a step of the engine of `b` can end in, and where (R16, R42, R52, R130). -/
inductive EngFault (p : Params) (b : BusId) (e : Engine) (x : Ctl) : Fault → Prop
  | notConfigured (op : EngOp) : EngFault p b e x (.NotConfigured (.eng b) b op)
  | spklen (f : Word) (spk : Nat) : EngFault p b e x (.SpklenOverflow (.eng b) b f spk)
  | ron (h : e.state = .ISSUE) (hr : e.ron = none) : EngFault p b e x (.UnwrittenRead (.eng b) b .RON)
  | con (h : e.state = .WAIT_TX_EMPTY) (hc : x.con.txEmptyCtrl = none) :
      EngFault p b e x (.UnwrittenRead (.eng b) b .CON)
  | overflow (ag : Agent) (w : CmdWord) (h : e.state = .ISSUE) (hf : ¬ x.txq.length < p.TXQ_DEPTH) :
      EngFault p b e x (.TxOverflow ag b w)
  | underflow (ag : Agent) (h : e.state = .POP) (h0 : e.sub = 0) (hq : x.rxq = []) :
      EngFault p b e x (.RxUnderflow ag b)

/-- `t` is `s` after a step of the engine of `b`. -/
def EngStepped (b : BusId) (s t : State) : Prop :=
  ∃ e x, Becomes b s e x t ∧ EngMove s.params (s.eng b) (s.ctl b) e x

/-- The outcome is one of a step of the engine of `b`. -/
abbrev EngRuns (b : BusId) (s : State) (o : Out) : Prop :=
  Meets (EngStepped b s) (EngFault s.params b (s.eng b) (s.ctl b)) o

theorem EngStepped.stay (b : BusId) (s : State) : EngStepped b s s := ⟨_, _, .refl b s, .stay⟩

section Operations

variable {b : BusId} {s t : State} {e : Engine} {x : Ctl}

/-! ## The register writes -/

theorem Becomes.disable (h : Becomes b s e x t) : Becomes b s e (x.disabled s.params) (disable b t) := by
  obtain rfl := h.ctl
  rw [← h.params]
  exact h.setCtl _
theorem Becomes.enable (h : Becomes b s e x t) : Becomes b s e { x with en := some true } (enable b t) := by
  obtain rfl := h.ctl
  exact h.setCtl _
theorem Becomes.writeTar (h : Becomes b s e x t) (a : BitVec ADDR_WIDTH) :
    Becomes b s e (if x.en = some true then x else { x with tar := some (a.setWidth 7) }) (writeTar b a t) := by
  obtain rfl := h.ctl
  unfold Machine.writeTar
  dsimp only
  split
  · exact h
  · exact h.setCtl _
theorem Becomes.writeConMode (h : Becomes b s e x t) :
    Becomes b s e (if x.en = some true then x
      else { x with con := { x.con with
        masterMode := some true, addr10Master := some false, restartEn := some true, txEmptyCtrl := some true } })
      (writeConMode b t) := by
  obtain rfl := h.ctl
  unfold Machine.writeConMode
  dsimp only
  split
  · exact h
  · exact h.setCtl _

/-- Each of SETBAUD's register writes is an edge of the controller (R132). -/
theorem Becomes.baudWrite (h : Becomes b s e x t) (j : Nat) :
    ∃ y, Becomes b s e y (baudWrite b j t) ∧ BaudWrite s.params e.operands.freq.toNat x y := by
  obtain rfl := h.ctl
  obtain rfl := h.eng
  unfold Machine.baudWrite
  dsimp only
  split
  · exact ⟨_, h, .refused⟩
  rename_i hf
  rw [Bool.not_eq_true] at hf
  split
  · exact ⟨_, h.disable, .disable⟩
  · exact ⟨_, h.setCtl _, .high hf⟩
  · exact ⟨_, h.setCtl _, .low hf⟩
  · exact ⟨_, h.setCtl _, .settings _ (t.ctl b).txHold (t.ctl b).con.speed (t.ctl b).en⟩
  · exact ⟨_, h.setCtl _, .settings (t.ctl b).fsSpklen _ (t.ctl b).con.speed (t.ctl b).en⟩
  · unfold writeConSpeed
    dsimp only
    split
    · exact ⟨_, h, .refused⟩
    · exact ⟨_, h.setCtl _, .settings (t.ctl b).fsSpklen (t.ctl b).txHold _ (t.ctl b).en⟩
  · exact ⟨_, h.enable, .settings (t.ctl b).fsSpklen (t.ctl b).txHold (t.ctl b).con.speed _⟩

/-! ## How requests and calls end -/

theorem Becomes.returnResult (h : Becomes b s e x t) (r : Result) (idx : Nat) :
    Becomes b s { e with state := .IDLE, sub := 0, result := r, resultIndex := idx } x (returnResult b r idx t) := by
  obtain rfl := h.eng
  rw [returnResult_eq]
  exact (h.setEng _).setCore _ _

theorem Becomes.startReadCall (h : Becomes b s e x t) :
    Becomes b s { e with
      phase := .read, state := .CHECK, sub := 1, len := e.operands.rlen, k := 0, ns := false
      budget := budgetOf e.operands.tmo } x (startReadCall b t) := by
  obtain rfl := h.eng
  exact h.setEng _
theorem Becomes.startWriteCall (h : Becomes b s e x t) :
    Becomes b s { e with
      phase := .write, state := .CHECK, sub := 1, len := e.operands.wlen, k := 0, ns := false
      budget := budgetOf e.operands.tmo } x (startWriteCall b t) := by
  obtain rfl := h.eng
  exact h.setEng _

end Operations

section Engine

variable {b : BusId} {s : State}

theorem EngStepped.returnResult (h : (s.eng b).mayEnd) (r : Result) (idx : Nat) :
    EngStepped b s (returnResult b r idx s) :=
  ⟨_, _, (Becomes.refl b s).returnResult r idx, .returned r idx _ h (.inl rfl)⟩

/-- A call ends its request or, in a TRANSFER, starts the next one (R174), with `RON` kept or set to `NS`. -/
theorem EngStepped.callReturn {ron : Option Bool} {t : State}
    (ht : Becomes b s { s.eng b with ron := ron } (s.ctl b) t) (h : (s.eng b).mayEnd)
    (hron : ron = (s.eng b).ron ∨ ron = some (s.eng b).ns) (r : Result × Nat) : EngStepped b s (callReturn b r t) := by
  unfold Machine.callReturn
  dsimp only
  split
  · exact ⟨_, _, ht.startReadCall, .callStarted .read _ ron h hron⟩
  · exact ⟨_, _, ht.returnResult r.1 r.2, .returned r.1 r.2 ron h hron⟩

theorem entryChecks_runs (h : (s.eng b).state = .CHECK) : EngRuns b s (entryChecks b s) := by
  have ends : ∀ r, EngStepped b s (callReturn b r s) := .callReturn (.refl b s) (.inl h) (.inl rfl)
  unfold entryChecks
  dsimp only
  split
  · exact .notConfigured _
  split
  · exact ends _
  split
  · exact ends _
  · exact ⟨_, _, (Becomes.refl b s).goto _ _, .checked h (by simp_all) (by simp_all)⟩

theorem EngStepped.timeoutReturn {o : Oracle} (h : (s.eng b).polls) :
    EngStepped b s (timeoutReturn b (s.setOracle o)) :=
  .callReturn (((Becomes.refl b s).setOracle o).setRon _) (.inr (.inr h)) (.inr rfl) _

theorem EngStepped.budgetDraw (h : (s.eng b).polls) : EngStepped b s (budgetDraw b s) := by
  obtain ⟨o, ho⟩ := drawTimeout_snd s
  simp only [Machine.budgetDraw, ho]
  split
  · split
    · exact .timeoutReturn h
    · exact ⟨_, _, ((Becomes.refl b s).setOracle o).goto _ _, .poll 0 h⟩
  · exact ⟨_, _, (Becomes.refl b s).goto _ _, .poll 0 h⟩

theorem EngStepped.stopDraw (h : (s.eng b).polls) : EngStepped b s (stopDraw b s) := by
  unfold Machine.stopDraw
  split
  · exact .timeoutReturn (o := s.oracle) h
  · exact .budgetDraw h

/-- Where a failed poll leaves the engine (R143). -/
theorem Becomes.pollAgain {e : Engine} {x : Ctl} {t : State} (h : Becomes b s e x t) (budget : Bool) (n : Nat) :
    ∃ sub, Becomes b s { e with sub := sub } x (pollAgain b budget n t) := by
  obtain rfl := h.eng
  unfold Machine.pollAgain
  split
  · exact ⟨n, h.goto _ _⟩
  · exact ⟨0, h.goto _ _⟩

theorem EngStepped.pollAgain (h : (s.eng b).polls) (budget : Bool) (n : Nat) :
    EngStepped b s (pollAgain b budget n s) := by
  obtain ⟨sub, ht⟩ := (Becomes.refl b s).pollAgain budget n
  exact ⟨_, _, ht, .poll sub h⟩

theorem setupStep_stepped {first : EngState} (h : (s.eng b).state = .SETUP)
    (hf : first = .ISSUE ∨ first = .WAIT_SPACE) : EngStepped b s (setupStep b first s) := by
  have here := Becomes.refl b s
  unfold setupStep
  split
  · exact ⟨_, _, here.disable.goto _ _, .setupDisable h ‹_›⟩
  · exact ⟨_, _, (here.writeTar _).goto _ _, .setupTar h ‹_›⟩
  · exact ⟨_, _, here.enable.goto _ _, .setupEnable h ‹_›⟩
  next h0 h1 h2 =>
    simp only [imp_false] at h0 h1 h2
    exact ⟨_, _, (here.setEng _).goto _ _, .setupDone first h (by omega) hf⟩

/-- After a byte: the loop's entry state with some index, or FINISH. -/
theorem Becomes.nextByte {e : Engine} {x : Ctl} {t : State} (h : Becomes b s e x t) (first : EngState) :
    ∃ st k, (st = first ∨ st = .FINISH) ∧ Becomes b s { e with state := st, sub := 0, k := k } x (nextByte b first t) := by
  obtain rfl := h.eng
  unfold Machine.nextByte
  dsimp only
  split
  · exact ⟨first, (t.eng b).k + 1, .inl rfl, (h.setEng { t.eng b with k := (t.eng b).k + 1 }).goto _ _⟩
  · exact ⟨.FINISH, (t.eng b).k, .inr rfl, h.goto _ _⟩

theorem issueWord_runs {cmd : Bool} {dat : Byte} {wait : EngState} (h : (s.eng b).state = .ISSUE)
    (hw : wait = .WAIT_TX_EMPTY ∨ wait = .WAIT_RX) : EngRuns b s (issueWord b cmd dat wait s) := by
  unfold issueWord pushDataCmd
  dsimp only
  split
  · exact .ron h ‹_›
  split
  · exact ⟨_, _, ((Becomes.refl b s).setCtl _).goto _ _, .issued wait _ h hw ‹_›⟩
  · exact .overflow _ _ h ‹_›

/-- The abort source read and cleared, with what is kept of it (R52, R146). -/
theorem noteAbort_becomes (b : BusId) (s : State) :
    ∃ ab last kab, Becomes b s { s.eng b with abort := ab, lastabrt := last, kabrt := kab }
      { s.ctl b with abrtSrc := 0 } (noteAbort b (readAbrtSrc b s).1 (readAbrtSrc b s).2) := by
  have hread := (Becomes.refl b s).setCtl { s.ctl b with abrtSrc := 0 }
  unfold noteAbort
  split
  · exact ⟨(s.eng b).abort, (s.eng b).lastabrt, (s.eng b).kabrt, hread⟩
  · have heng : (readAbrtSrc b s).2.eng b = s.eng b := State.eng_setCtl ..
    rw [heng]
    exact ⟨true, (s.ctl b).abrtSrc, (s.eng b).k, hread.setEng _⟩

theorem EngStepped.finishCall (h : (s.eng b).state = .FINISH) : EngStepped b s (finishCall b s) :=
  .callReturn ((Becomes.refl b s).setRon _) (.inr (.inl h)) (.inr rfl) _

/-! ## One step of each request -/

theorem writeCallStep_runs (b : BusId) (s : State) : EngRuns b s (writeCallStep b s) := by
  have here := Becomes.refl b s
  unfold writeCallStep
  dsimp only
  split
  next h => exact entryChecks_runs h
  next h => exact setupStep_stepped h (.inl rfl)
  next h _ =>
    split
    · exact EngStepped.stay b s
    · rename_i d s1 hr
      exact ⟨_, _, ((here.ofSame (memRead_same hr)).setByte d).goto _ _, .fetched d h⟩
  next h _ => exact issueWord_runs h (.inl rfl)
  next h _ =>
    split
    · rename_i hn
      refine .con h ?_
      unfold Ctl.txEmpty at hn
      split at hn <;> simp_all
    · rename_i he
      refine ⟨_, _, here.goto _ _, .drained h ?_⟩
      unfold Ctl.txEmpty at he
      split at he <;> simp_all
    · exact .pollAgain (.inl h) _ _
  next h _ => exact .budgetDraw (.inl h)
  next h =>
    obtain ⟨ab, last, kab, hread⟩ := noteAbort_becomes b s
    split
    · exact ⟨_, _, hread.goto _ _, .abortChecked _ (s.eng b).k ab last kab h (.inl rfl)⟩
    · obtain ⟨st, k, hst, hnext⟩ := hread.nextByte .ISSUE
      exact ⟨_, _, hnext, .abortChecked st k ab last kab h (.inr hst)⟩
  next h _ =>
    split
    · exact ⟨_, _, here.goto _ _, .stopSeen h⟩
    · exact .pollAgain (.inr (.inl h)) _ _
  next h _ => exact .stopDraw (.inr (.inl h))
  next h =>
    have hclear := here.setCtl { s.ctl b with stopDet := false }
    split
    · exact ⟨_, _, hclear.goto _ _, .stopCleared .FINISH (s.eng b).k h (.inr rfl)⟩
    · obtain ⟨st, k, hst, hnext⟩ := hclear.nextByte .ISSUE
      exact ⟨_, _, hnext, .stopCleared st k h hst⟩
  next h => exact .finishCall h
  next => exact EngStepped.stay b s

theorem readCallStep_runs (b : BusId) (s : State) : EngRuns b s (readCallStep b s) := by
  have here := Becomes.refl b s
  unfold readCallStep
  dsimp only
  split
  next h => exact entryChecks_runs h
  next h => exact setupStep_stepped h (.inr rfl)
  next h =>
    split
    · exact ⟨_, _, here.goto _ _, .space h (by unfold writeSpace at *; omega)⟩
    · exact .pollAgain (.inr (.inr (.inl h))) _ _
  next h => exact issueWord_runs h (.inr rfl)
  next h _ =>
    split
    · rename_i hb
      exact ⟨_, _, here.goto _ _, .byteReady h (List.ne_nil_of_length_pos hb)⟩
    · refine ⟨_, _, here.goto _ _, ?_⟩
      rw [← h]
      exact .poll 1 (.inr (.inr (.inr h)))
  next h h1 =>
    obtain ⟨ab, last, kab, hread⟩ := noteAbort_becomes b s
    split
    · obtain ⟨sub, hpoll⟩ := hread.pollAgain (s.eng b).budget 2
      refine ⟨_, _, hpoll, ?_⟩
      exact .rxAbortRead (s.eng b).state sub ab last kab h h1 (.inl h)
    · exact ⟨_, _, hread.goto _ _, .rxAbortRead _ _ ab last kab h h1 (.inr rfl)⟩
  next h _ _ => exact .budgetDraw (.inr (.inr (.inr h)))
  next h h0 =>
    unfold popDataCmd
    dsimp only
    split
    · rename_i d r hq
      exact ⟨_, _, ((here.setCtl _).setByte d).goto _ _, .popped d r h hq⟩
    · exact .underflow _ h h0 ‹_›
  next h _ =>
    split
    · exact EngStepped.stay b s
    · rename_i s1 hw
      obtain ⟨st, k, hst, hnext⟩ := (here.ofSame (memWrite_same hw)).nextByte .WAIT_SPACE
      exact ⟨_, _, hnext, .stored st k h hst⟩
  next h => exact .finishCall h
  next => exact EngStepped.stay b s

theorem baudCheck_runs {st : EngState} {sub : Nat}
    (h : ((s.eng b).state = .CHECK ∧ (s.eng b).op = .SETBAUD ∧ st = .PROGRAM) ∨
      ((s.eng b).state = .FINISH ∧ st = .FINISH)) : EngRuns b s (baudCheck b st sub s) := by
  unfold baudCheck
  dsimp only
  split
  · exact .returnResult (h.imp And.left fun g => .inl g.1) _ _
  split
  · exact .spklen _ _
  · exact ⟨_, _, (Becomes.refl b s).goto _ _, .baudChecked st sub h⟩

theorem EngStepped.baudWrite {st : EngState} {sub j : Nat}
    (h : ((s.eng b).state = .PROGRAM ∧ (s.eng b).op = .SETBAUD ∧ (st = .PROGRAM ∨ st = .FINISH)) ∨
      ((s.eng b).state = .FINISH ∧ st = .FINISH)) : EngStepped b s (goto b st sub (baudWrite b j s)) := by
  obtain ⟨y, ht, hw⟩ := (Becomes.refl b s).baudWrite j
  exact ⟨_, _, ht.goto _ _, .baudWritten st sub y h hw⟩

theorem setbaudStep_runs (ho : (s.eng b).op = .SETBAUD) : EngRuns b s (setbaudStep b s) := by
  unfold setbaudStep
  dsimp only
  split
  next h =>
    split
    · exact baudCheck_runs (.inl ⟨h, ho, rfl⟩)
    · exact .notConfigured _
  next h =>
    split
    · exact .baudWrite (.inl ⟨h, ho, .inl rfl⟩)
    · exact .baudWrite (.inl ⟨h, ho, .inr rfl⟩)
  next h => exact .returnResult (.inr (.inl h)) _ _
  next => exact EngStepped.stay b s

theorem configureStep_runs (ho : (s.eng b).op = .CONFIGURE) : EngRuns b s (configureStep b s) := by
  have here := Becomes.refl b s
  have rest : ∀ {st sub tl rl dma t}, (s.eng b).state = .PROGRAM → 3 ≤ (s.eng b).sub →
      (st = .PROGRAM ∧ 4 ≤ sub) ∨ st = .FINISH →
      t = s.setCtl b { s.ctl b with txTl := tl, rxTl := rl, dmaCr := dma } → EngStepped b s (goto b st sub t) := by
    rintro st sub tl rl dma t h h3 hs rfl
    exact ⟨_, _, (here.setCtl _).goto _ _, .programRest st sub tl rl dma h ho h3 hs⟩
  unfold configureStep
  dsimp only
  split
  next h _ => exact ⟨_, _, (here.setCtl _).goto _ _, .blockReset h⟩
  next h _ => exact ⟨_, _, (here.setEng _).goto _ _, .nowConfigured h ho⟩
  next h h0 => exact ⟨_, _, here.disable.goto _ _, .programDisable h ho h0⟩
  next h h1 => exact ⟨_, _, (here.setRon _).goto _ _, .programRon h ho h1⟩
  next h h2 => exact ⟨_, _, here.writeConMode.goto _ _, .programCon h ho h2⟩
  next h h3 => exact rest h (by omega) (.inl ⟨rfl, le_rfl⟩) rfl
  next h h4 => exact rest h (by omega) (.inl ⟨rfl, by omega⟩) rfl
  next h h0 h1 h2 _ _ =>
    simp only [imp_false] at h0 h1 h2
    exact rest h (by omega) (.inr rfl) rfl
  next h _ => exact baudCheck_runs (.inr ⟨h, rfl⟩)
  next h _ =>
    split
    · exact .baudWrite (.inr ⟨h, rfl⟩)
    · exact .returnResult (.inr (.inl h)) _ _
  next => exact EngStepped.stay b s

theorem transferStep_runs (b : BusId) (s : State) : EngRuns b s (transferStep b s) := by
  unfold transferStep
  dsimp only
  split
  · rename_i hc
    unfold transferCheck
    dsimp only
    split
    · exact .notConfigured _
    split
    · exact .returnResult (.inl hc.1) _ _
    split
    · exact ⟨_, _, (Becomes.refl b s).startWriteCall, .callStarted .write _ _ (.inl hc.1) (.inl rfl)⟩
    split
    · exact ⟨_, _, (Becomes.refl b s).startReadCall, .callStarted .read _ _ (.inl hc.1) (.inl rfl)⟩
    · exact .returnResult (.inl hc.1) _ _
  · split
    · exact writeCallStep_runs b s
    · exact readCallStep_runs b s

/-- A pick of the engine is a step of its request (R13, R17). -/
theorem engStep_runs (b : BusId) (s : State) : EngRuns b s (engStep b s) := by
  unfold engStep Engine.instr
  split
  · exact EngStepped.stay b s
  have hcur : ∀ {o : Out}, EngRuns b (s.setCur (.eng b)) o → EngRuns b s o := fun h =>
    h.mono (fun _ ⟨e, x, ht, hm⟩ => ⟨e, x, ht.of_setCur, hm⟩) fun _ h => h
  split
  · exact hcur (configureStep_runs ‹_›)
  · exact hcur (setbaudStep_runs ‹_›)
  · exact hcur (writeCallStep_runs _ _)
  · exact hcur (readCallStep_runs _ _)
  · exact hcur (transferStep_runs _ _)

end Engine

end Sys2Proof.Machine
end

section
/-! SUPPORT. What one step can do to a bus's controller, and what a core's step can: then the inversion of a step of the
machine, `step_moved` for its next states and `step_fault` for its fatals. -/

namespace Sys2Proof.Machine

open Sys2Proof.Config

/-! ## The edges of the controller -/

/-- The controller `y` is `x` after a PERFORM (R95, R97) or an OTHER_ABORT (R102): a command ended, with a byte received where
there was room for one, or was aborted. -/
def Performed (p : Params) (x y : Ctl) : Prop :=
  (∃ stop rw ev, EndedCommand stop rw ev x y ∧
    (y.rxq = x.rxq ∨ (x.rxq.length < p.RXQ_DEPTH ∧ ∃ d, y.rxq = x.rxq ++ [d]))) ∨
  ∃ m ev, AbortedWith m ev x y

theorem Performed.after {p : Params} {ev : List BusEvent} {x y : Ctl}
    (h : Performed p { x with trace := x.trace ++ ev } y) : Performed p x y :=
  h.imp (fun ⟨stop, rw', _, he, hr⟩ => ⟨stop, rw', _, he.after, hr⟩) fun ⟨m, _, ha⟩ => ⟨m, _, ha.after⟩

/-- `t` is `s` after a command of the controller of `b`. -/
def CtlPerformed (b : BusId) (s t : State) : Prop :=
  ∃ y, Becomes b s (s.eng b) y t ∧ Performed s.params (s.ctl b) y

section Controller

variable {b : BusId} {s : State}

theorem writeData_performed (b : BusId) (dat : Byte) (stop : Bool) (s : State) :
    CtlPerformed b s (writeData b dat stop s) := by
  obtain ⟨y, o, ht, hack, hnack⟩ := writeData_spec b dat stop s
  refine ⟨y, ht ▸ ((Becomes.refl b s).setCtl y).setOracle o, ?_⟩
  cases h : (drawAck s).1
  · exact .inr ⟨_, _, hnack h⟩
  · exact .inl ⟨_, _, _, (hack h).1, .inl (hack h).2⟩

theorem readData_performed (stop : Bool) (hroom : (s.ctl b).rxq.length < s.params.RXQ_DEPTH) :
    CtlPerformed b s (readData b stop s) := by
  obtain ⟨y, o, ht, hend, hrxq⟩ := readData_spec b stop s
  exact ⟨y, ht ▸ ((Becomes.refl b s).setCtl y).setOracle o, .inl ⟨_, _, _, hend, .inr ⟨hroom, _, hrxq⟩⟩⟩

/-- The address phase before a data phase `go`, which sees the same receive queue. -/
theorem addressPhase_performed {fr : Framing} {a : BitVec 7} {rw' : Dir} {go : State → State}
    (hgo : ∀ u, u.params = s.params → (u.ctl b).rxq = (s.ctl b).rxq → CtlPerformed b u (go u)) :
    CtlPerformed b s (addressPhase b fr a rw' go s) := by
  obtain ⟨o, _, hack, hnack⟩ := addressPhase_spec b fr a rw' go s
  have here := Becomes.refl b s
  cases h : (drawAck s).1
  · obtain ⟨y, o', ht, ha⟩ := hnack h
    exact ⟨y, ht ▸ (here.setCtl y).setOracle o', .inr ⟨_, _, ha⟩⟩
  · have hu := (here.setCtl { s.ctl b with
      trace := (s.ctl b).trace ++ (fr.events ++ [.ADDR a rw', .ACK]) }).setOracle o
    obtain ⟨y, ht, hp⟩ := hgo _ hu.params (by rw [hu.ctl])
    rw [hu.ctl] at hp
    rw [hack h]
    exact ⟨y, hu.eng ▸ hu.trans ht, hp.after⟩

/-- The one fatal of a controller: a command that needs a target address finds none written (R42). -/
def CtlFault (b : BusId) (x : Ctl) (f : Fault) : Prop :=
  f = .UnwrittenRead (.ctl b) b .TAR ∧ x.inflight ≠ none ∧ x.tar = none

theorem withFraming_performed {restart : Bool} {rw' : Dir} {go : State → State} (hin : (s.ctl b).inflight ≠ none)
    (hgo : ∀ u, u.params = s.params → (u.ctl b).rxq = (s.ctl b).rxq → CtlPerformed b u (go u)) :
    Meets (CtlPerformed b s) (CtlFault b (s.ctl b)) (withFraming b restart rw' go s) := by
  unfold withFraming
  dsimp only
  split
  · exact hgo s rfl rfl
  split
  · exact ⟨rfl, hin, ‹_›⟩
  · exact addressPhase_performed hgo

/-- The outcome is one of a PERFORM of the controller of `b`. -/
abbrev CtlRuns (b : BusId) (s : State) (o : Out) : Prop :=
  Meets (fun t => SameParts s t ∨ CtlPerformed b s t) (CtlFault b (s.ctl b)) o

theorem execCmdWrite_runs {dat : Byte} {stop restart : Bool} (hb : s.cur.bus = b) :
    CtlRuns b s (execCmdWrite dat stop restart s) := by
  subst hb
  unfold execCmdWrite
  dsimp only
  split
  next hrun =>
    exact (withFraming_performed hrun.2 fun u _ _ => writeData_performed _ _ _ u).mono (fun _ h => .inr h) fun _ h => h
  next => exact .inl (.refl s)

theorem execCmdRead_runs (dat : Byte) {stop restart : Bool} (hb : s.cur.bus = b) :
    CtlRuns b s (execCmdRead dat stop restart s) := by
  subst hb
  unfold execCmdRead
  dsimp only
  split
  next hrun =>
    obtain ⟨_, hin, hroom⟩ := hrun
    refine (withFraming_performed hin fun u hp hr => readData_performed _ ?_).mono (fun _ h => .inr h) fun _ h => h
    rwa [hr, hp]
  next => exact .inl (.refl s)

/-- A PERFORM of the controller of `b` runs its in-flight command (R89, R95, R97). -/
theorem performStep_runs (b : BusId) (s : State) : CtlRuns b s (performStep b s) := by
  have hcur : ∀ {o : Out}, CtlRuns b (s.setCur (.ctl b)) o → CtlRuns b s o := fun h =>
    h.mono (fun _ ht => ht.imp id fun ⟨y, ht, hp⟩ => ⟨y, ht.of_setCur, hp⟩) fun _ h => h
  unfold performStep
  split
  · exact .inl (.refl s)
  next w _ =>
    unfold decodeCmdw
    split
    · exact hcur (execCmdRead_runs (w.extractLsb' 0 8) rfl)
    · exact hcur (execCmdWrite_runs rfl)

/-- OTHER_ABORT aborts with no bus event (R102). -/
theorem ctlOtherAbort_runs (b : BusId) (s : State) :
    Meets (fun t => SameParts s t ∨ ∃ y m, Becomes b s (s.eng b) y t ∧ AbortedWith m [] (s.ctl b) y) (fun _ => False)
      (ctlOtherAbort b s) := by
  unfold ctlOtherAbort
  dsimp only
  split
  · obtain ⟨o, ho⟩ := drawAbort_snd s
    obtain ⟨o', ht⟩ := abortWith_spec b (drawAbort s).1.value (drawAbort s).2
    rw [ho] at ht
    rw [ho, ht]
    refine .inr ⟨_, (drawAbort s).1.value, (((Becomes.refl b s).setOracle o).setCtl _).setOracle o',
      (drawExtra (s.setOracle o)).1, ?_⟩
    rw [List.append_nil]
    rfl
  · exact .inl (.refl s)

theorem ctlLoad_runs (b : BusId) (s : State) :
    Meets (fun t => SameParts s t ∨ ∃ w r, (s.ctl b).txq = w :: r ∧
      Becomes b s (s.eng b) { s.ctl b with txq := r, inflight := some w } t) (fun _ => False) (ctlLoad b s) := by
  unfold ctlLoad
  dsimp only
  split
  · split
    · rename_i w r hq
      exact .inr ⟨w, r, hq, (Becomes.refl b s).setCtl _⟩
    · exact .inl (.refl s)
  · exact .inl (.refl s)

theorem ctlStop_runs (b : BusId) (s : State) :
    Meets (fun t => SameParts s t ∨ Becomes b s (s.eng b) { s.ctl b with
      trace := (s.ctl b).trace ++ [.STOP], busOpen := false, pendingStop := false, stopDet := true } t)
      (fun _ => False) (ctlStop b s) := by
  unfold ctlStop
  dsimp only
  split
  · exact .inr ((Becomes.refl b s).setCtl _)
  · exact .inl (.refl s)

end Controller

/-! ## The cores and the lock bank -/

/-- The fatals a core's own step raises (R184). -/
def Fault.ofCore : Fault → Prop
  | .IllegalRequest _ _ => True
  | .SpinlockIdOutOfRange _ _ _ => True
  | .SelfDeadlock _ _ _ => True
  | .GuardMismatch _ _ _ _ => True
  | .ConcurrentUse _ _ _ _ => True
  | .NotConfigured _ _ _ => False
  | .UnwrittenRead _ _ _ => False
  | .TxOverflow _ _ _ => False
  | .RxUnderflow _ _ => False
  | .Misaligned _ _ => False
  | .SpklenOverflow _ _ _ _ => False

/-- The engine `e'` is `e`, which was `IDLE`, with a request accepted (R58, R179). -/
structure Accepted (e e' : Engine) : Prop where
  idle : e.state = .IDLE
  starts : (e'.state = .RESET_BLOCK ∧ e'.op = .CONFIGURE) ∨ e'.state = .CHECK
  sub : e'.sub = 0
  ron : e'.ron = e.ron
  configured : e'.configured = e.configured

/-- `t` is `s` after a step of a core: both buses are as before, or one has accepted a request. -/
def CoreStepped (s t : State) : Prop :=
  SameParts s t ∨ ∃ b e, Accepted (s.eng b) e ∧ Becomes b s e (s.ctl b) t

/-- The outcome is one of a core's step that reaches no bus. -/
abbrev CoreOnly (s : State) (o : Out) : Prop := Meets (SameParts s) Fault.ofCore o

theorem CoreOnly.stepped {s : State} {o : Out} (h : CoreOnly s o) : Meets (CoreStepped s) Fault.ofCore o :=
  h.mono (fun _ h => .inl h) fun _ h => h

section Cores

variable {s : State}

theorem issueRequest_runs {c : CoreId} {b : BusId} {load : Operands → Engine → Engine}
    (hload : (s.eng b).state = .IDLE → ∀ o,
      Accepted (s.eng b) { load o (s.eng b).reinit with requester := c, operands := o, sub := 0 }) :
    Meets (CoreStepped s) Fault.ofCore (issueRequest c b load s) := by
  unfold issueRequest
  dsimp only
  split
  · split
    · rename_i hi
      exact .inr ⟨b, _, hload hi _, ((Becomes.refl b s).setEng _).setCore _ _⟩
    · trivial
  · exact .inl ⟨rfl, rfl⟩
  · exact .inl (.refl s)

theorem lockTAS_same (c : CoreId) (n : LockId) (s : State) : SameParts s (lockTAS c n s).2 := by
  cases h : (s.lock n).claimed
  · rw [lockTAS_free h]; exact ⟨rfl, rfl⟩
  · rw [lockTAS_claimed h]; exact .refl s

theorem execSpinAcq_only (id : Nat) (s : State) : CoreOnly s (execSpinAcq id s) := by
  unfold execSpinAcq
  dsimp only
  split
  · split
    · split
      · trivial
      · exact ⟨rfl, rfl⟩
    · trivial
  · split
    · exact (lockTAS_same _ _ s).trans ⟨rfl, rfl⟩
    · exact .refl s
  · exact ⟨rfl, rfl⟩
  · exact ⟨rfl, rfl⟩
  · exact .refl s

theorem execSpinRel_only (id : Nat) (s : State) : CoreOnly s (execSpinRel id s) := by
  unfold execSpinRel
  dsimp only
  split
  · split
    · trivial
    · split
      · split
        · exact ⟨rfl, rfl⟩
        · trivial
      · trivial
  · exact ⟨rfl, rfl⟩
  · exact ⟨rfl, rfl⟩
  · exact ⟨rfl, rfl⟩
  · exact .refl s

theorem stwStep_only (c : CoreId) (addr v : Nat) (s : State) : CoreOnly s (stwStep c addr v s) := by
  unfold stwStep
  dsimp only
  split
  · exact .refl s
  · have hmem := memWrite_same ‹_›
    split <;> exact hmem.trans ⟨rfl, rfl⟩

theorem ldwStep_only (c : CoreId) (r addr : Nat) (s : State) : CoreOnly s (ldwStep c r addr s) := by
  unfold ldwStep
  dsimp only
  split
  · exact .refl s
  · have hmem := memRead_same ‹_›
    split <;> exact hmem.trans ⟨rfl, rfl⟩

theorem branch_same (c : CoreId) (taken : Bool) (t : Nat) (s : State) : SameParts s (branch c taken t s) := by
  unfold branch; split <;> exact ⟨rfl, rfl⟩

theorem scriptStep_only (c : CoreId) (l : ScriptLine) (s : State) : CoreOnly s (scriptStep c l s) := by
  cases l with
  | req _ _ => exact .refl s
  | stb _ _ =>
    unfold scriptStep
    dsimp only
    split
    · exact .refl s
    next hm => exact (memWrite_same hm).trans ⟨rfl, rfl⟩
  | ldb _ _ =>
    unfold scriptStep
    dsimp only
    split
    · exact .refl s
    next hm => exact (memRead_same hm).trans ⟨rfl, rfl⟩
  | stw _ _ => exact stwStep_only ..
  | ldw _ _ => exact ldwStep_only ..
  | b _ => exact branch_same ..
  | bOK _ => exact branch_same ..
  | bNOK _ => exact branch_same ..
  | bEQ _ _ => exact branch_same ..
  | bVEQ _ _ _ => exact branch_same ..
  | bVNE _ _ _ => exact branch_same ..
  | addi _ _ _ => exact ⟨rfl, rfl⟩
  | halt => exact ⟨rfl, rfl⟩
  | setIE _ => exact ⟨rfl, rfl⟩

/-- A legal request word is one of the seven requests (R76). -/
theorem decodeErq_request {q : Word} {i : Instr} (h : decodeErq q = .ok i) : i.port = .request := by
  unfold decodeErq at h
  split_ifs at h <;> cases h <;> rfl

/-- A request issued by a core reaches a bus only where its engine accepts it. -/
theorem exec_request_runs {c : CoreId} {i : Instr} (hi : i.port = .request) (hc : s.cur = .core c) :
    Meets (CoreStepped s) Fault.ofCore (exec i s) := by
  cases i with
  | configure b =>
    simp only [exec, execConfigure, hc]
    exact issueRequest_runs fun h _ => ⟨h, .inl ⟨rfl, rfl⟩, rfl, rfl, rfl⟩
  | setbaud b =>
    simp only [exec, execSetbaud, hc]
    exact issueRequest_runs fun h _ => ⟨h, .inr rfl, rfl, rfl, rfl⟩
  | write b ns a =>
    simp only [exec, execWrite, hc]
    exact issueRequest_runs fun h _ => ⟨h, .inr rfl, rfl, rfl, rfl⟩
  | read b ns a =>
    simp only [exec, execRead, hc]
    exact issueRequest_runs fun h _ => ⟨h, .inr rfl, rfl, rfl, rfl⟩
  | transfer b a =>
    simp only [exec, execTransfer, hc]
    exact issueRequest_runs fun h _ => ⟨h, .inr rfl, rfl, rfl, rfl⟩
  | spinAcq id => exact (execSpinAcq_only id s).stepped
  | spinRel id => exact (execSpinRel_only id s).stepped
  | cmdWrite _ _ _ => cases hi
  | cmdRead _ _ _ => cases hi
  | lockTas _ => cases hi
  | lockClr _ => cases hi

/-- The agent whose step it is is no part of a bus. -/
theorem CoreStepped.of_setCur {a : Agent} {t : State} (h : CoreStepped (s.setCur a) t) : CoreStepped s t :=
  h.imp id fun ⟨b, e, ha, ht⟩ => ⟨b, e, ha, ht.of_setCur⟩

theorem coreStep_runs (c : CoreId) (s : State) : Meets (CoreStepped s) Fault.ofCore (coreStep c s) := by
  unfold coreStep scriptEnd
  dsimp only
  split
  · exact .inl (.refl s)
  split
  · split
    · exact .inl ⟨rfl, rfl⟩
    · exact .inl (.refl s)
  · split
    · exact (exec_request_runs (decodeErq_request ‹_›) rfl).mono (fun _ h => h.of_setCur) fun _ h => h
    · trivial
  · exact ((scriptStep_only c _ _).stepped).mono (fun _ h => h.of_setCur) fun _ h => h

theorem irqStep_only (c : CoreId) (s : State) : CoreOnly s (irqStep c s) := by
  obtain ⟨o, ho⟩ := drawHandler_snd s
  unfold irqStep
  dsimp only
  split
  · rw [ho]; exact ⟨rfl, rfl⟩
  · exact .refl s

theorem bankStep_only (s : State) : CoreOnly s (bankStep s) := by
  unfold bankStep
  split
  · exact .refl s
  · unfold decodeLka
    split
    · exact ⟨rfl, rfl⟩
    · rename_i c w r _ _
      have start : SameParts s ((s.setLkaQ r).setCur (.bank c)) := ⟨rfl, rfl⟩
      exact (start.trans (lockTAS_same c (lkaN w) _)).trans ⟨rfl, rfl⟩

theorem announce_only (c : CoreId) (a : Nat) (v : Byte) (s : State) : CoreOnly s (announce c a v s) := by
  unfold announce
  split
  · exact ⟨rfl, rfl⟩
  · exact .refl s

end Cores

/-! ## One step of the machine -/

/-- What a step of the pick `pick` can do to bus `b`, from engine `e` and controller `x` to the two last arguments: leave it,
have its engine accept a request, run its engine, or run its controller. -/
inductive BusMove (pick : Pick) (b : BusId) (p : Params) (e : Engine) (x : Ctl) : Engine → Ctl → Prop
  | same : BusMove pick b p e x e x
  | accepted {e' : Engine} (h : Accepted e e') : BusMove pick b p e x e' x
  | engine {e' : Engine} {y : Ctl} (hp : pick = .eng b) (h : EngMove p e x e' y) : BusMove pick b p e x e' y
  | loaded (w : CmdWord) (r : List CmdWord) (hq : x.txq = w :: r) :
      BusMove pick b p e x e { x with txq := r, inflight := some w }
  | performed {y : Ctl} (hp : pick = .perform b) (h : Performed p x y) : BusMove pick b p e x e y
  | stopped (hp : pick = .stop b) :
      BusMove pick b p e x e
        { x with trace := x.trace ++ [.STOP], busOpen := false, pendingStop := false, stopDet := true }
  | aborted {y : Ctl} (m : Word) (h : AbortedWith m [] x y) : BusMove pick b p e x e y

/-- What a step of the pick `pick` can do: keep the parameters, and move each bus. -/
def Moved (pick : Pick) (s t : State) : Prop :=
  t.params = s.params ∧ ∀ b, BusMove pick b s.params (s.eng b) (s.ctl b) (t.eng b) (t.ctl b)

/-- The fatals a step can end in. -/
def StepFault (s : State) (f : Fault) : Prop :=
  f.ofCore ∨ (∃ b, EngFault s.params b (s.eng b) (s.ctl b) f) ∨ ∃ b, CtlFault b (s.ctl b) f

theorem SameParts.moved {pick : Pick} {s t : State} (h : SameParts s t) : Moved pick s t :=
  ⟨h.1, fun b => h.eng b ▸ h.ctl b ▸ .same⟩

/-- A step that moves bus `b` leaves the other. -/
theorem Becomes.moved {pick : Pick} {b : BusId} {s t : State} {e : Engine} {x : Ctl} (h : Becomes b s e x t)
    (hb : BusMove pick b s.params (s.eng b) (s.ctl b) e x) : Moved pick s t := by
  refine ⟨h.params, fun b' => ?_⟩
  by_cases hne : b' = b
  · subst hne
    rwa [h.eng, h.ctl]
  · rw [(h.other b' hne).1, (h.other b' hne).2]
    exact .same

theorem CoreStepped.moved {pick : Pick} {s t : State} (h : CoreStepped s t) : Moved pick s t := by
  obtain h | ⟨b, e, ha, ht⟩ := h
  · exact h.moved
  · exact ht.moved (.accepted ha)

/-- What a pick can do, and the fatals it can end in. -/
theorem runPick_moves (pick : Pick) (s : State) : Meets (Moved pick s) (StepFault s) (runPick pick s) := by
  have coreOnly : ∀ {u : State} {o : Out}, SameParts s u → CoreOnly u o → Meets (Moved pick s) (StepFault s) o :=
    fun hu h => h.mono (fun _ h => (hu.trans h).moved) fun f h => .inl h
  cases pick with
  | core c => exact (coreStep_runs c s).mono (fun _ h => h.moved) fun f h => .inl h
  | irq c => exact coreOnly ⟨rfl, rfl⟩ (irqStep_only c (s.setCur (.core c)))
  | bank => exact coreOnly (.refl s) (bankStep_only s)
  | ahead c a v => exact coreOnly ⟨rfl, rfl⟩ (announce_only c a v (s.setCur (.core c)))
  | eng b =>
    refine (engStep_runs b s).mono ?_ fun f h => .inr (.inl ⟨b, h⟩)
    rintro t ⟨e, x, ht, hm⟩
    exact ht.moved (.engine rfl hm)
  | perform b =>
    refine (performStep_runs b s).mono ?_ fun f h => .inr (.inr ⟨b, h⟩)
    rintro t (h | ⟨y, ht, hperf⟩)
    · exact h.moved
    · exact ht.moved (.performed rfl hperf)
  | load b =>
    refine (ctlLoad_runs b (s.setCur (.ctl b))).mono ?_ fun f h => h.elim
    rintro t (h | ⟨w, r, hq, ht⟩)
    · exact h.moved
    · exact ht.moved (.loaded w r hq)
  | stop b =>
    refine (ctlStop_runs b (s.setCur (.ctl b))).mono ?_ fun f h => h.elim
    rintro t (h | ht)
    · exact h.moved
    · exact ht.moved (.stopped rfl)
  | otherAbort b =>
    refine (ctlOtherAbort_runs b (s.setCur (.ctl b))).mono ?_ fun f h => h.elim
    rintro t (h | ⟨y, m, ht, ha⟩)
    · exact h.moved
    · exact ht.moved (.aborted m ha)

/-- The inversion of a step: the picked agent's, the drawn pick being no part of a bus. -/
theorem step_moves (s : State) : Meets (Moved s.pick s) (StepFault s) (step s) := by
  obtain ⟨o, ho⟩ := step_pick s
  rw [ho]
  exact runPick_moves s.pick (s.setOracle o)

theorem step_moved {s t : State} (h : step s = .next t) : Moved s.pick s t := (step_moves s).next h
theorem step_fault {s : State} {f : Fault} (h : step s = .fault f) : StepFault s f := (step_moves s).fault h

end Sys2Proof.Machine
end

section
/-! SUPPORT. What no step takes away, read off the edges: obligations O24, O54 and O55. -/

namespace Sys2Proof.Machine

open Sys2Proof.Config

/-! ## What no engine step takes away -/

section Edges

variable {p : Params} {e e' : Engine} {x y : Ctl}

/-- A register write of SETBAUD (R132) leaves the trace, the abort source, `TX_EMPTY_CTRL` and the target address, and leaves the
queues or empties them. -/
structure BaudKeeps (x y : Ctl) : Prop where
  trace : y.trace = x.trace
  abrtSrc : y.abrtSrc = x.abrtSrc
  txEmptyCtrl : y.con.txEmptyCtrl = x.con.txEmptyCtrl
  tar : y.tar = x.tar
  queues : (y.txq = [] ∧ y.rxq = [] ∧ y.inflight = none) ∨ (y.txq = x.txq ∧ y.rxq = x.rxq ∧ y.inflight = x.inflight)

theorem BaudWrite.keeps {f : Nat} (h : BaudWrite p f x y) : BaudKeeps x y := by
  cases h
  case disable => exact ⟨rfl, rfl, rfl, rfl, .inl ⟨rfl, rfl, rfl⟩⟩
  all_goals exact ⟨rfl, rfl, rfl, rfl, .inr ⟨rfl, rfl, rfl⟩⟩

/-- The engine adds nothing to the bus trace (R35). -/
theorem EngMove.trace (h : EngMove p e x e' y) : y.trace = x.trace := by
  cases h
  case baudWritten hw => exact hw.keeps.trace
  case setupTar => split <;> rfl
  case programCon => split <;> rfl
  all_goals rfl

/-- The engine never clears `CONFIGURED` (R16). -/
theorem EngMove.configured (h : EngMove p e x e' y) (hc : e.configured = true) : e'.configured = true := by
  cases h
  case nowConfigured => rfl
  all_goals exact hc

/-- The engine clears `ABRT_SRC` only where it reads it or resets the block (R29). -/
theorem EngMove.abrtSrc (h : EngMove p e x e' y) :
    y.abrtSrc = x.abrtSrc ∨ e.state = .CHECK_ABORT ∨ (e.state = .WAIT_RX ∧ e.sub = 1) ∨ e.state = .RESET_BLOCK := by
  cases h
  case abortChecked h _ => exact .inr (.inl h)
  case rxAbortRead h h1 _ => exact .inr (.inr (.inl ⟨h, h1⟩))
  case blockReset h => exact .inr (.inr (.inr h))
  case baudWritten hw => exact .inl hw.keeps.abrtSrc
  case setupTar => split <;> exact .inl rfl
  case programCon => split <;> exact .inl rfl
  all_goals exact .inl rfl

end Edges

/-! ## The count registers (R22, R128) -/

/-- The clauses of `State.CountsInv` for one bus. -/
def CountsOk (x : Ctl) : Prop :=
  (∀ h, x.fsHcnt = some h → CNT_MIN ≤ h.toNat) ∧ ∀ l, x.fsLcnt = some l → CNT_MIN ≤ l.toNat

theorem countsInv_iff (s : State) : s.CountsInv ↔ ∀ b, CountsOk (s.ctl b) := Iff.rfl

section Counts

variable {p : Params} {e e' : Engine} {x y : Ctl}

theorem CountsOk.congr (hi : CountsOk x) (hh : y.fsHcnt = x.fsHcnt) (hl : y.fsLcnt = x.fsLcnt) : CountsOk y := by
  rwa [CountsOk, hh, hl]

/-- A count in range fits its register. -/
theorem cntMin_le_ofNat {n : Nat} (h8 : 8 ≤ n) (hmax : n ≤ 65535) : CNT_MIN ≤ (BitVec.ofNat 16 n).toNat := by
  rw [BitVec.toNat_ofNat, Nat.mod_eq_of_lt (by omega)]
  exact h8

/-- An accepted frequency's counts are at least `CNT_MIN`. -/
theorem BaudWrite.countsOk {f : Nat} (h : BaudWrite p f x y) (hi : CountsOk x) : CountsOk y := by
  cases h
  case high hf =>
    obtain ⟨_, _, _, h8, hmax, _⟩ := (badBaud_eq_false f).1 hf
    exact ⟨fun h hh => by cases hh; exact cntMin_le_ofNat h8 hmax, hi.2⟩
  case low hf =>
    obtain ⟨_, h8, hmax, _⟩ := (badBaud_eq_false f).1 hf
    exact ⟨hi.1, fun l hl => by cases hl; exact cntMin_le_ofNat h8 hmax⟩
  all_goals exact hi.congr rfl rfl

theorem EngMove.countsOk (h : EngMove p e x e' y) (hi : CountsOk x) : CountsOk y := by
  cases h
  case baudWritten hw => exact hw.countsOk hi
  case blockReset => exact ⟨fun _ h => (nomatch h), fun _ h => (nomatch h)⟩
  case setupTar => split <;> exact hi.congr rfl rfl
  case programCon => split <;> exact hi.congr rfl rfl
  all_goals exact hi.congr rfl rfl

theorem Performed.counts (h : Performed p x y) : y.fsHcnt = x.fsHcnt ∧ y.fsLcnt = x.fsLcnt := by
  obtain ⟨_, _, _, ⟨_, _, _, _, _, _, _, hh, hl, _⟩, _⟩ | ⟨_, _, _, rfl⟩ := h
  · exact ⟨hh, hl⟩
  · exact ⟨rfl, rfl⟩

theorem BusMove.countsOk {pick : Pick} {b : BusId} (h : BusMove pick b p e x e' y) (hi : CountsOk x) : CountsOk y := by
  cases h
  case engine h => exact h.countsOk hi
  case performed h => exact hi.congr h.counts.1 h.counts.2
  case aborted h =>
    obtain ⟨_, rfl⟩ := h
    exact hi.congr rfl rfl
  all_goals exact hi.congr rfl rfl

end Counts

/-- Settles O24: only SETBAUD's two count writes write a count, and only for an accepted frequency. -/
theorem everyStepKeepsTheCounts : Obligations.EveryStepKeepsTheCounts :=
  fun s _ hi hstep b => ((step_moved hstep).2 b).countsOk ((countsInv_iff s).1 hi b)

/-! ## `CONFIGURED` and the trace (R16, R35) -/

/-- What a command writes to the trace is added to it. -/
theorem Performed.trace {p : Params} {x y : Ctl} (h : Performed p x y) : ∃ ev, y.trace = x.trace ++ ev := by
  obtain ⟨_, _, ev, ⟨h, _⟩, _⟩ | ⟨_, ev, _, rfl⟩ := h
  · exact ⟨ev, h⟩
  · exact ⟨ev, rfl⟩

theorem BusMove.trace {pick : Pick} {b : BusId} {p : Params} {e e' : Engine} {x y : Ctl}
    (h : BusMove pick b p e x e' y) :
    ∃ ev, y.trace = x.trace ++ ev ∧ (ev ≠ [] → pick = .perform b ∨ pick = .stop b) := by
  cases h
  case performed hp h =>
    obtain ⟨ev, hev⟩ := h.trace
    exact ⟨ev, hev, fun _ => .inl hp⟩
  case stopped hp => exact ⟨[.STOP], rfl, fun _ => .inr hp⟩
  case engine h => exact ⟨[], by rw [h.trace, List.append_nil], fun h => absurd rfl h⟩
  case aborted h =>
    obtain ⟨_, rfl⟩ := h
    exact ⟨[], rfl, fun h => absurd rfl h⟩
  all_goals exact ⟨[], (List.append_nil _).symm, fun h => absurd rfl h⟩

theorem BusMove.configured {pick : Pick} {b : BusId} {p : Params} {e e' : Engine} {x y : Ctl}
    (h : BusMove pick b p e x e' y) (hc : e.configured = true) : e'.configured = true := by
  cases h
  case accepted h => rw [h.configured, hc]
  case engine h => exact h.configured hc
  all_goals exact hc

/-- Settles O54, by the moves of each bus. -/
theorem parametersConfiguredAndTraceOnlyGrow : Obligations.ParametersConfiguredAndTraceOnlyGrow := by
  intro s t hstep
  obtain ⟨hparams, hmove⟩ := step_moved hstep
  exact ⟨hparams, fun b => ⟨(hmove b).configured, (hmove b).trace⟩⟩

/-! ## The abort source (R29, R52) -/

/-- A command sets bits of the abort source, if any (R101). -/
theorem Performed.abrtSrc {p : Params} {x y : Ctl} (h : Performed p x y) : ∃ bits, y.abrtSrc = x.abrtSrc ||| bits := by
  obtain ⟨_, _, _, ⟨_, _, _, _, _, _, _, _, _, _, _, _, _, _, _, h, _⟩, _⟩ | ⟨m, _, extra, rfl⟩ := h
  · exact ⟨0, by simp [h]⟩
  · exact ⟨m ||| extra, BitVec.or_assoc ..⟩

theorem BusMove.abrtSrc {pick : Pick} {b : BusId} {p : Params} {e e' : Engine} {x y : Ctl}
    (h : BusMove pick b p e x e' y) :
    (∃ bits, y.abrtSrc = x.abrtSrc ||| bits) ∨ (pick = .eng b ∧
      (e.state = .CHECK_ABORT ∨ (e.state = .WAIT_RX ∧ e.sub = 1) ∨ e.state = .RESET_BLOCK)) := by
  have kept : y.abrtSrc = x.abrtSrc → ∃ bits, y.abrtSrc = x.abrtSrc ||| bits := fun h => ⟨0, by simp [h]⟩
  cases h
  case engine hp h => exact h.abrtSrc.imp kept fun h => ⟨hp, h⟩
  case performed h => exact .inl h.abrtSrc
  case aborted m h =>
    obtain ⟨extra, rfl⟩ := h
    exact .inl ⟨m ||| extra, BitVec.or_assoc ..⟩
  all_goals exact .inl (kept rfl)

/-- Settles O55: but for the three engine steps a move keeps the abort source or sets more bits of it. -/
theorem abortBitsStayUntilReadOrReset : Obligations.AbortBitsStayUntilReadOrReset := by
  intro s t b j hstep hbit
  refine ((step_moved hstep).2 b).abrtSrc.imp_left ?_
  rintro ⟨bits, hbits⟩
  rw [hbits, BitVec.getLsbD_or, hbit, Bool.true_or]

end Sys2Proof.Machine
end

section
/-! SUPPORT. The FIFOs stay inside their capacity (R27, R28, R168): obligation O56. -/

namespace Sys2Proof.Machine

open Sys2Proof.Config

/-- The clauses of `State.FifoInv` for one bus. -/
def FifoOk (p : Params) (e : Engine) (x : Ctl) : Prop :=
  x.txq.length ≤ p.TXQ_DEPTH ∧ x.rxq.length ≤ p.RXQ_DEPTH ∧ (e.txqDrained → x.txq = []) ∧
    (e.state = .ISSUE → x.txq.length < p.TXQ_DEPTH) ∧ (e.state = .POP ∧ e.sub = 0 → x.rxq ≠ [])

theorem fifoInv_iff (s : State) :
    s.FifoInv ↔ 1 ≤ s.params.TXQ_DEPTH ∧ ∀ b, FifoOk s.params (s.eng b) (s.ctl b) := Iff.rfl

/-- The engine states in which no clause but the capacities asks anything. -/
def EngState.quiet : EngState → Bool
  | .IDLE => true
  | .CHECK => true
  | .WAIT_TX_EMPTY => true
  | .WAIT_SPACE => true
  | .WAIT_RX => true
  | .FINISH => true
  | .RESET_BLOCK => true
  | .PROGRAM => true
  | .SETUP => false
  | .ISSUE => false
  | .CHECK_ABORT => false
  | .WAIT_STOP => false
  | .CLEAR_STOP => false
  | .POP => false

section Fifo

variable {p : Params} {e e' : Engine} {x y : Ctl}

theorem FifoOk.of_quiet (hq : e.state.quiet = true) (htx : x.txq.length ≤ p.TXQ_DEPTH)
    (hrx : x.rxq.length ≤ p.RXQ_DEPTH) : FifoOk p e x := by
  refine ⟨htx, hrx, ?_, fun h => ?_, fun h => ?_⟩
  · rintro (⟨h, _⟩ | h | h | h) <;> rw [h] at hq <;> cases hq
  · rw [h] at hq; cases hq
  · rw [h.1] at hq; cases hq

/-- With the command queue empty there is room to push. -/
theorem FifoOk.of_empty (hd : 1 ≤ p.TXQ_DEPTH) (htx : x.txq = []) (hrx : x.rxq.length ≤ p.RXQ_DEPTH)
    (hpop : e.state ≠ .POP) : FifoOk p e x :=
  ⟨by simp [htx], hrx, fun _ => htx, fun _ => htx ▸ hd, fun h => absurd h.1 hpop⟩

/-- No engine step overfills a queue (R153, R160). -/
theorem EngMove.capacity (h : EngMove p e x e' y) (htx : x.txq.length ≤ p.TXQ_DEPTH)
    (hrx : x.rxq.length ≤ p.RXQ_DEPTH) : y.txq.length ≤ p.TXQ_DEPTH ∧ y.rxq.length ≤ p.RXQ_DEPTH := by
  have emptied : y.txq = [] → y.rxq = [] → y.txq.length ≤ p.TXQ_DEPTH ∧ y.rxq.length ≤ p.RXQ_DEPTH := fun ht hr => by
    simp [ht, hr]
  cases h
  case issued hroom => exact ⟨by simpa using hroom, hrx⟩
  case popped hq => exact ⟨htx, by simp only [hq, List.length_cons] at hrx; exact Nat.le_of_succ_le hrx⟩
  case setupDisable => exact emptied rfl rfl
  case programDisable => exact emptied rfl rfl
  case blockReset => exact emptied rfl rfl
  case baudWritten hw =>
    obtain ⟨ht, hr, _⟩ | ⟨ht, hr, _⟩ := hw.keeps.queues
    · exact emptied ht hr
    · rw [ht, hr]; exact ⟨htx, hrx⟩
  case setupTar => split <;> exact ⟨htx, hrx⟩
  case programCon => split <;> exact ⟨htx, hrx⟩
  all_goals exact ⟨htx, hrx⟩

/-- The engine's edges keep the clauses: it reaches ISSUE over an empty queue or with room seen, and POP with a byte seen. -/
theorem EngMove.fifoOk (hd : 1 ≤ p.TXQ_DEPTH) (h : EngMove p e x e' y) (hi : FifoOk p e x) : FifoOk p e' y := by
  obtain ⟨htx, hrx, hdrained, hissue, hpop⟩ := hi
  obtain ⟨htx', hrx'⟩ := h.capacity htx hrx
  have quiet : e'.state.quiet = true → FifoOk p e' y := fun hq => .of_quiet hq htx' hrx'
  have empty : y.txq = [] → e'.state ≠ .POP → FifoOk p e' y := fun hq hne => .of_empty hd hq hrx' hne
  cases h
  case stay => exact ⟨htx, hrx, hdrained, hissue, hpop⟩
  case poll h =>
    rcases h with h | h | h | h
    · exact quiet (by rw [h]; rfl)
    · exact empty (hdrained (.inr (.inr (.inl h)))) (by rw [h]; decide)
    · exact quiet (by rw [h]; rfl)
    · exact quiet (by rw [h]; rfl)
  case checked => exact ⟨htx, hrx, fun h => by simp [Engine.txqDrained] at h, nofun, nofun⟩
  case setupDisable => exact empty rfl nofun
  case setupTar h h1 =>
    refine empty ?_ nofun
    split <;> exact hdrained (.inl ⟨h, h1.ge⟩)
  case setupEnable h h2 => exact empty (hdrained (.inl ⟨h, by omega⟩)) nofun
  case setupDone h h3 hf => exact empty (hdrained (.inl ⟨h, by omega⟩)) (by rcases hf with rfl | rfl <;> nofun)
  case fetched h => exact ⟨htx, hrx, fun h => by simp [Engine.txqDrained] at h, fun _ => hissue h, nofun⟩
  case issued hw _ => exact quiet (by rcases hw with rfl | rfl <;> rfl)
  case drained he => exact empty he nofun
  case abortChecked h hs => exact empty (hdrained (.inr (.inl h))) (by rcases hs with rfl | rfl | rfl <;> nofun)
  case stopSeen h => exact empty (hdrained (.inr (.inr (.inl h)))) nofun
  case stopCleared h hs => exact empty (hdrained (.inr (.inr (.inr h)))) (by rcases hs with rfl | rfl <;> nofun)
  case space hroom => exact ⟨htx, hrx, fun h => by simp [Engine.txqDrained] at h, fun _ => hroom, nofun⟩
  case byteReady hb => exact ⟨htx, hrx, fun h => by simp [Engine.txqDrained] at h, nofun, fun _ => hb⟩
  case popped => exact ⟨htx', hrx', fun h => by simp [Engine.txqDrained] at h, nofun, nofun⟩
  case rxAbortRead hs => exact quiet (by rcases hs with rfl | rfl <;> rfl)
  case stored hs => exact quiet (by rcases hs with rfl | rfl <;> rfl)
  case programRest hs => exact quiet (by rcases hs with ⟨rfl, _⟩ | rfl <;> rfl)
  case baudChecked h => exact quiet (by rcases h with ⟨_, _, rfl⟩ | ⟨_, rfl⟩ <;> rfl)
  case baudWritten h _ => exact quiet (by rcases h with ⟨_, _, rfl | rfl⟩ | ⟨_, rfl⟩ <;> rfl)
  all_goals exact quiet rfl

/-- A controller step shortens or empties the command queue, and keeps the received bytes, with one more where there is room. -/
theorem Performed.queues (h : Performed p x y) :
    (y.txq = x.txq ∨ y.txq = []) ∧ (y.rxq = x.rxq ∨ (x.rxq.length < p.RXQ_DEPTH ∧ ∃ d, y.rxq = x.rxq ++ [d])) := by
  obtain ⟨_, _, _, ⟨_, _, _, _, _, _, _, _, _, _, _, _, _, _, htx, _⟩, hrx⟩ | ⟨_, _, _, rfl⟩ := h
  · exact ⟨.inl htx, hrx⟩
  · exact ⟨.inr rfl, .inl rfl⟩

/-- The clauses hold for a command queue no longer and the same received bytes, with one more where there is room. -/
theorem FifoOk.of_controller (hi : FifoOk p e x) (htx : y.txq.length ≤ x.txq.length)
    (hrx : y.rxq = x.rxq ∨ (x.rxq.length < p.RXQ_DEPTH ∧ ∃ d, y.rxq = x.rxq ++ [d])) : FifoOk p e y := by
  obtain ⟨htx0, hrx0, hdrained, hissue, hpop⟩ := hi
  refine ⟨htx.trans htx0, ?_, fun h => ?_, fun h => htx.trans_lt (hissue h), fun h => ?_⟩
  · rcases hrx with hrx | ⟨hroom, d, hrx⟩
    · rwa [hrx]
    · simpa [hrx] using hroom
  · rw [hdrained h] at htx
    exact List.length_eq_zero_iff.1 (Nat.le_zero.1 htx)
  · rcases hrx with hrx | ⟨_, d, hrx⟩
    · rw [hrx]; exact hpop h
    · simp [hrx]

theorem BusMove.fifoOk {pick : Pick} {b : BusId} (hd : 1 ≤ p.TXQ_DEPTH) (h : BusMove pick b p e x e' y)
    (hi : FifoOk p e x) : FifoOk p e' y := by
  cases h
  case same => exact hi
  case accepted h =>
    refine .of_quiet ?_ hi.1 hi.2.1
    rcases h.starts with ⟨h, _⟩ | h <;> rw [h] <;> rfl
  case engine h => exact h.fifoOk hd hi
  case loaded hq => exact hi.of_controller (by simp [hq]) (.inl rfl)
  case performed h =>
    refine hi.of_controller ?_ h.queues.2
    rcases h.queues.1 with h | h <;> simp [h]
  case stopped => exact hi
  case aborted h =>
    obtain ⟨_, rfl⟩ := h
    exact hi.of_controller (Nat.zero_le _) (.inl rfl)

end Fifo

/-- The engine pushes in ISSUE, where there is room (R153). -/
theorem State.FifoInv.not_txOverflow {s : State} (hi : s.FifoInv) (ag : Agent) (b : BusId) (w : CmdWord) :
    ¬ StepFault s (.TxOverflow ag b w) := by
  rintro (h | ⟨b, h⟩ | ⟨b, h, _⟩)
  · exact h
  · obtain ⟨_, _, _, hissue, _⟩ := hi.2 b
    cases h with
    | overflow _ _ h hfull => exact hfull (hissue h)
  · cases h

/-- The engine pops in POP, where there is a byte (R160). -/
theorem State.FifoInv.not_rxUnderflow {s : State} (hi : s.FifoInv) (ag : Agent) (b : BusId) :
    ¬ StepFault s (.RxUnderflow ag b) := by
  rintro (h | ⟨b, h⟩ | ⟨b, h, _⟩)
  · exact h
  · obtain ⟨_, _, _, _, hpop⟩ := hi.2 b
    cases h with
    | underflow _ h h0 hempty => exact hpop ⟨h, h0⟩ hempty
  · cases h

/-- Settles O56: each move of a bus keeps its clauses, and they exclude the two faults where the engine could raise them. -/
theorem fifoFaultsAreUnreachable : Obligations.FifoFaultsAreUnreachable := by
  intro s hi
  refine ⟨fun t hstep => ?_, fun ag b w hf => hi.not_txOverflow ag b w (step_fault hf),
    fun ag b hf => hi.not_rxUnderflow ag b (step_fault hf)⟩
  obtain ⟨hparams, hmove⟩ := step_moved hstep
  rw [fifoInv_iff, hparams]
  exact ⟨hi.1, fun b => (hmove b).fifoOk hi.1 (hi.2 b)⟩

end Sys2Proof.Machine
end

section
/-! SUPPORT. What is read has been written (R42): the two halves of `State.WrittenInv`, what a call reads and what CONFIGURE
writes, are kept by every move of a bus: obligation O57. -/

namespace Sys2Proof.Machine

open Sys2Proof.Config

/-- The controller has a command waiting or in flight. -/
def Ctl.queued (x : Ctl) : Prop := x.inflight ≠ none ∨ x.txq ≠ []

/-- The clauses of `State.WrittenInv` about the calls: the target address. -/
def CallOk (e : Engine) (x : Ctl) : Prop :=
  (x.queued ∨ e.pastTar → x.tar ≠ none) ∧ (e.state = .SETUP ∧ e.sub = 1 → x.en = some false) ∧
    (e.inCall → e.configured = true)

/-- The clauses of `State.WrittenInv` about CONFIGURE: `RON` and `TX_EMPTY_CTRL`. -/
def ConfOk (e : Engine) (x : Ctl) : Prop :=
  (e.configured = true ∧ ¬ e.configuring 1 → e.ron ≠ none) ∧
    (e.configured = true ∧ ¬ e.configuring 2 → x.con.txEmptyCtrl ≠ none) ∧
    (e.state = .PROGRAM ∧ e.op = .CONFIGURE ∧ 1 ≤ e.sub ∧ e.sub ≤ 2 → x.en = some false)

theorem writtenInv_iff (s : State) :
    s.WrittenInv ↔ ∀ b, CallOk (s.eng b) (s.ctl b) ∧ ConfOk (s.eng b) (s.ctl b) := by
  simp only [State.WrittenInv, CallOk, ConfOk, Ctl.queued, and_assoc, or_assoc]

section Written

variable {p : Params} {e e' : Engine} {x y : Ctl}

/-! ## The target address -/

theorem CallOk.of_past (hc : e.configured = true) (htar : x.tar ≠ none) (hs : ¬ (e.state = .SETUP ∧ e.sub = 1)) :
    CallOk e x :=
  ⟨fun _ => htar, fun h => absurd h hs, fun _ => hc⟩

theorem CallOk.of_outside (hout : ¬ e.inCall) (htar : x.queued → x.tar ≠ none) : CallOk e x :=
  ⟨fun h => h.elim htar fun h => absurd h.1 hout, fun h => absurd (.inl h.1) hout, fun h => absurd h hout⟩

theorem Engine.polls.pastTar (h : e.polls) : e.pastTar := by
  rcases h with h | h | h | h <;> simp [Engine.pastTar, Engine.inCall, h]

/-- The engine's edges keep the clauses: in SETUP the disabled controller takes the target address, before any command word. -/
theorem EngMove.callOk (h : EngMove p e x e' y) (hi : CallOk e x) : CallOk e' y := by
  obtain ⟨htar, hoff, hconf⟩ := hi
  have past : e.pastTar → e'.configured = e.configured → y.tar = x.tar → ¬ (e'.state = .SETUP ∧ e'.sub = 1) →
      CallOk e' y := fun hp hc ht hs => .of_past (hc.trans (hconf hp.1)) (ht ▸ htar (.inr hp)) hs
  have outside : ¬ e'.inCall → y.inflight = x.inflight → y.txq = x.txq → y.tar = x.tar → CallOk e' y :=
    fun hout hf hq ht => .of_outside hout fun h => ht ▸ htar (.inl (by rwa [Ctl.queued, hf, hq] at h))
  have emptied : ¬ e'.inCall → y.inflight = none → y.txq = [] → CallOk e' y :=
    fun hout hf hq => .of_outside hout fun h => absurd h (by simp [Ctl.queued, hf, hq])
  cases h
  case stay => exact ⟨htar, hoff, hconf⟩
  case poll h =>
    refine past h.pastTar rfl rfl ?_
    rintro ⟨hs, _⟩
    rcases h with h | h | h | h <;> cases h.symm.trans hs
  case checked hc _ =>
    exact ⟨fun h => h.elim (htar ∘ .inl) fun h => absurd (h.2 rfl) (by simp), nofun, fun _ => hc⟩
  case setupDisable h _ =>
    refine ⟨fun hq => ?_, fun _ => rfl, fun _ => hconf (.inl h)⟩
    rcases hq with (hq | hq) | ⟨_, h2⟩
    · exact absurd rfl hq
    · exact absurd rfl hq
    · exact absurd (h2 rfl) (by simp)
  case setupTar h h1 =>
    rw [if_neg (by rw [hoff ⟨h, h1⟩]; decide)]
    exact .of_past (hconf (.inl h)) nofun nofun
  case setupEnable h h2 => exact past ⟨.inl h, fun _ => h2.ge⟩ rfl rfl nofun
  case setupDone h h3 hf =>
    exact past ⟨.inl h, fun _ => by omega⟩ rfl rfl (by rcases hf with rfl | rfl <;> nofun)
  case fetched h => exact past (by simp [Engine.pastTar, Engine.inCall, h]) rfl rfl nofun
  case issued h hw _ =>
    exact past (by simp [Engine.pastTar, Engine.inCall, h]) rfl rfl (by rcases hw with rfl | rfl <;> nofun)
  case drained h _ => exact past (Engine.polls.pastTar (.inl h)) rfl rfl nofun
  case abortChecked h hs =>
    exact past (by simp [Engine.pastTar, Engine.inCall, h]) rfl rfl (by rcases hs with rfl | rfl | rfl <;> nofun)
  case stopSeen h => exact past (Engine.polls.pastTar (.inr (.inl h))) rfl rfl nofun
  case stopCleared h hs =>
    exact past (by simp [Engine.pastTar, Engine.inCall, h]) rfl rfl (by rcases hs with rfl | rfl <;> nofun)
  case space h _ => exact past (Engine.polls.pastTar (.inr (.inr (.inl h)))) rfl rfl nofun
  case byteReady h _ => exact past (Engine.polls.pastTar (.inr (.inr (.inr h)))) rfl rfl nofun
  case rxAbortRead h _ hs =>
    exact past (Engine.polls.pastTar (.inr (.inr (.inr h)))) rfl rfl (by rcases hs with rfl | rfl <;> nofun)
  case popped h _ => exact past (by simp [Engine.pastTar, Engine.inCall, h]) rfl rfl nofun
  case stored h hs =>
    exact past (by simp [Engine.pastTar, Engine.inCall, h]) rfl rfl (by rcases hs with rfl | rfl <;> nofun)
  case blockReset => exact emptied (by simp [Engine.inCall]) rfl rfl
  case programDisable => exact emptied (by simp [Engine.inCall]) rfl rfl
  case programCon => refine outside (by simp [Engine.inCall]) ?_ ?_ ?_ <;> split <;> rfl
  case programRest hs =>
    exact outside (by rcases hs with ⟨rfl, _⟩ | rfl <;> simp [Engine.inCall]) rfl rfl rfl
  case baudChecked h =>
    exact outside (by rcases h with ⟨_, _, rfl⟩ | ⟨_, rfl⟩ <;> simp [Engine.inCall]) rfl rfl rfl
  case baudWritten st _ h hw =>
    have hout : ¬ ({ e with state := st } : Engine).inCall := by
      rcases h with ⟨_, _, rfl | rfl⟩ | ⟨_, rfl⟩ <;> simp [Engine.inCall]
    obtain ⟨hq, _, hf⟩ | ⟨hq, _, hf⟩ := hw.keeps.queues
    · exact emptied hout hf hq
    · exact outside hout hf hq hw.keeps.tar
  all_goals exact outside (by simp [Engine.inCall]) rfl rfl rfl

/-! ## `RON` and `TX_EMPTY_CTRL` -/

theorem Engine.configuring.mono {i j : Nat} (hij : i ≤ j) (h : e.configuring i) : e.configuring j :=
  h.imp_right fun ⟨hs, ho, hk⟩ => ⟨hs, ho, hk.trans hij⟩

/-- Outside CONFIGURE's writes the two values stay written. -/
theorem ConfOk.of_running (hi : ConfOk e x) (hrun : ¬ e.configuring 2) (hc : e'.configured = e.configured)
    (hron : e.ron ≠ none → e'.ron ≠ none) (hcon : y.con.txEmptyCtrl = x.con.txEmptyCtrl)
    (hs : ¬ (e'.state = .PROGRAM ∧ e'.op = .CONFIGURE ∧ e'.sub ≤ 2)) : ConfOk e' y := by
  obtain ⟨h1, h2, _⟩ := hi
  refine ⟨fun h => hron (h1 ⟨hc ▸ h.1, fun g => hrun (g.mono (by decide))⟩), fun h => ?_, fun h => ?_⟩
  · rw [hcon]; exact h2 ⟨hc ▸ h.1, hrun⟩
  · exact absurd ⟨h.1, h.2.1, h.2.2.2⟩ hs

theorem not_configuring {j : Nat} (h : e.state ≠ .RESET_BLOCK) (h' : e.state ≠ .PROGRAM) : ¬ e.configuring j :=
  fun g => g.elim h fun g => h' g.1

theorem Engine.polls.not_configuring {j : Nat} (h : e.polls) : ¬ e.configuring j := by
  rcases h with h | h | h | h <;> simp [Engine.configuring, h]

theorem Engine.mayEnd.not_configuring {j : Nat} (h : e.mayEnd) : ¬ e.configuring j := by
  rcases h with h | h | h
  · simp [Engine.configuring, h]
  · simp [Engine.configuring, h]
  · exact h.not_configuring

/-- The engine's edges keep the clauses: CONFIGURE writes `RON` and, its controller disabled, `CON` before it goes on. -/
theorem EngMove.confOk (h : EngMove p e x e' y) (hi : ConfOk e x) : ConfOk e' y := by
  have running : e.state ≠ .RESET_BLOCK → e.state ≠ .PROGRAM → e'.configured = e.configured → e'.ron = e.ron →
      y.con.txEmptyCtrl = x.con.txEmptyCtrl → e'.state ≠ .PROGRAM → ConfOk e' y :=
    fun hr hp hc hron hcon hs => hi.of_running (not_configuring hr hp) hc (hron ▸ id) hcon fun h => hs h.1
  have ended : ∀ {ron}, e.mayEnd → ron = e.ron ∨ ron = some e.ns → e.ron ≠ none → ron ≠ none := by
    rintro ron - (rfl | rfl) h
    · exact h
    · nofun
  cases h
  case stay => exact hi
  case poll h =>
    refine hi.of_running h.not_configuring rfl id rfl ?_
    rintro ⟨hs, _⟩
    rcases h with h | h | h | h <;> cases h.symm.trans hs
  case returned h hron => exact hi.of_running h.not_configuring rfl (ended h hron) rfl nofun
  case callStarted h hron => exact hi.of_running h.not_configuring rfl (ended h hron) rfl nofun
  case blockReset => exact ⟨fun h => absurd (.inl rfl) h.2, fun h => absurd (.inl rfl) h.2, nofun⟩
  case nowConfigured ho =>
    exact ⟨fun h => absurd (.inr ⟨rfl, ho, Nat.zero_le _⟩) h.2, fun h => absurd (.inr ⟨rfl, ho, Nat.zero_le _⟩) h.2,
      fun h => absurd h.2.2.1 (by simp)⟩
  case programDisable ho _ =>
    exact ⟨fun h => absurd (.inr ⟨rfl, ho, le_rfl⟩) h.2, fun h => absurd (.inr ⟨rfl, ho, Nat.le_succ 1⟩) h.2, fun _ => rfl⟩
  case programRon h ho h1 =>
    exact ⟨nofun, fun h => absurd (.inr ⟨rfl, ho, le_rfl⟩) h.2, fun _ => hi.2.2 ⟨h, ho, h1.ge, by omega⟩⟩
  case programCon h ho h2 =>
    rw [if_neg (by rw [hi.2.2 ⟨h, ho, by omega, h2.le⟩]; decide)]
    refine ⟨fun hc => hi.1 ⟨hc.1, ?_⟩, nofun, fun h => absurd h.2.2.2 (by simp)⟩
    rintro (hr | ⟨_, _, hle⟩)
    · cases h.symm.trans hr
    · omega
  case programRest h ho h3 hs =>
    refine hi.of_running ?_ rfl id rfl ?_
    · rintro (hr | ⟨_, _, hle⟩)
      · cases h.symm.trans hr
      · omega
    · rintro ⟨hp, _, hle⟩
      rcases hs with ⟨_, h4⟩ | rfl
      · exact absurd hle (by simp; omega)
      · cases hp
  case baudChecked h =>
    refine hi.of_running ?_ rfl id rfl ?_
    · rcases h with ⟨h, _⟩ | ⟨h, _⟩ <;> simp [Engine.configuring, h]
    · rcases h with ⟨_, ho, _⟩ | ⟨_, rfl⟩
      · simp [ho]
      · simp
  case baudWritten h hw =>
    refine hi.of_running ?_ rfl id hw.keeps.txEmptyCtrl ?_
    · rcases h with ⟨h, ho, _⟩ | ⟨h, _⟩
      · simp [Engine.configuring, h, ho]
      · simp [Engine.configuring, h]
    · rcases h with ⟨_, ho, _⟩ | ⟨_, rfl⟩
      · simp [ho]
      · simp
  case setupTar h _ => exact running (by simp [h]) (by simp [h]) rfl rfl (by split <;> rfl) nofun
  case setupDone h _ hf =>
    exact running (by simp [h]) (by simp [h]) rfl rfl rfl (by rcases hf with rfl | rfl <;> nofun)
  case issued h hw _ =>
    exact running (by simp [h]) (by simp [h]) rfl rfl rfl (by rcases hw with rfl | rfl <;> nofun)
  case abortChecked h hs =>
    exact running (by simp [h]) (by simp [h]) rfl rfl rfl (by rcases hs with rfl | rfl | rfl <;> nofun)
  case stopCleared h hs =>
    exact running (by simp [h]) (by simp [h]) rfl rfl rfl (by rcases hs with rfl | rfl <;> nofun)
  case rxAbortRead h _ hs =>
    exact running (by simp [h]) (by simp [h]) rfl rfl rfl (by rcases hs with rfl | rfl <;> nofun)
  case stored h hs =>
    exact running (by simp [h]) (by simp [h]) rfl rfl rfl (by rcases hs with rfl | rfl <;> nofun)
  all_goals exact running (by simp [*]) (by simp [*]) rfl rfl rfl nofun

/-! ## The other moves of a bus -/

/-- A request that is accepted is outside a call and outside CONFIGURE's writes. -/
theorem CallOk.of_accepted (hi : CallOk e x) (h : Accepted e e') : CallOk e' x := by
  refine .of_outside ?_ fun hq => hi.1 (.inl hq)
  rcases h.starts with ⟨hs, _⟩ | hs <;> simp [Engine.inCall, hs]

theorem ConfOk.of_accepted (hi : ConfOk e x) (h : Accepted e e') : ConfOk e' x := by
  refine hi.of_running (not_configuring ?_ ?_) h.configured (h.ron ▸ id) rfl ?_
  · simp [h.idle]
  · simp [h.idle]
  · rcases h.starts with ⟨hs, _⟩ | hs <;> simp [hs]

/-- The controller writes no register of its own. -/
theorem Performed.registers (h : Performed p x y) :
    y.con = x.con ∧ y.tar = x.tar ∧ y.en = x.en ∧ y.inflight = none ∧ (y.txq = x.txq ∨ y.txq = []) := by
  have hq := h.queues.1
  obtain ⟨_, _, _, ⟨_, hf, _, _, hcon, htar, hen, _⟩, _⟩ | ⟨_, _, _, rfl⟩ := h
  · exact ⟨hcon, htar, hen, hf, hq⟩
  · exact ⟨rfl, rfl, rfl, rfl, .inr rfl⟩

theorem CallOk.of_controller (hi : CallOk e x) (htar : y.tar = x.tar) (hen : y.en = x.en) (hq : y.queued → x.queued) :
    CallOk e y := by
  obtain ⟨h1, h2, h3⟩ := hi
  exact ⟨fun h => htar ▸ h1 (h.imp_left hq), fun h => hen ▸ h2 h, h3⟩

theorem ConfOk.of_controller (hi : ConfOk e x) (hcon : y.con = x.con) (hen : y.en = x.en) : ConfOk e y := by
  rwa [ConfOk, hcon, hen]

theorem Ctl.queued_of_txq (hf : y.inflight = none) (hq : y.txq = x.txq ∨ y.txq = []) (h : y.queued) : x.queued := by
  rcases h with h | h
  · exact absurd hf h
  · rcases hq with hq | hq
    · exact .inr (hq ▸ h)
    · exact absurd hq h

theorem BusMove.written {pick : Pick} {b : BusId} (h : BusMove pick b p e x e' y) (hi : CallOk e x ∧ ConfOk e x) :
    CallOk e' y ∧ ConfOk e' y := by
  obtain ⟨hcall, hconf⟩ := hi
  cases h
  case same => exact ⟨hcall, hconf⟩
  case accepted h => exact ⟨hcall.of_accepted h, hconf.of_accepted h⟩
  case engine h => exact ⟨h.callOk hcall, h.confOk hconf⟩
  case loaded hq =>
    exact ⟨hcall.of_controller rfl rfl fun _ => .inr (by simp [hq]), hconf.of_controller rfl rfl⟩
  case performed h =>
    obtain ⟨hcon, htar, hen, hf, hq⟩ := h.registers
    exact ⟨hcall.of_controller htar hen (Ctl.queued_of_txq hf hq), hconf.of_controller hcon hen⟩
  case stopped => exact ⟨hcall.of_controller rfl rfl id, hconf.of_controller rfl rfl⟩
  case aborted h =>
    obtain ⟨_, rfl⟩ := h
    exact ⟨hcall.of_controller rfl rfl (Ctl.queued_of_txq rfl (.inr rfl)), hconf.of_controller rfl rfl⟩

/-- In a call `RON` and `TX_EMPTY_CTRL` are written. -/
theorem ConfOk.written (hi : ConfOk e x) (hc : e.configured = true) (hrun : ¬ e.configuring 2) :
    e.ron ≠ none ∧ x.con.txEmptyCtrl ≠ none :=
  ⟨hi.1 ⟨hc, fun g => hrun (g.mono (by decide))⟩, hi.2.1 ⟨hc, hrun⟩⟩

end Written

/-- No step reads an unwritten value: `RON` and `TX_EMPTY_CTRL` are read in a call, and `TAR` for a command in flight. -/
theorem State.WrittenInv.not_unwrittenRead {s : State} (hi : s.WrittenInv) (ag : Agent) (b : BusId) (r : RegName) :
    ¬ StepFault s (.UnwrittenRead ag b r) := by
  rw [writtenInv_iff] at hi
  rintro (h | ⟨b, h⟩ | ⟨b, _, hf, htar⟩)
  · exact h
  · obtain ⟨⟨_, _, hcall⟩, hconf⟩ := hi b
    have written : (s.eng b).inCall → ¬ (s.eng b).configuring 2 →
        (s.eng b).ron ≠ none ∧ (s.ctl b).con.txEmptyCtrl ≠ none := fun hin hrun => hconf.written (hcall hin) hrun
    cases h with
    | ron h hron => exact (written (by simp [Engine.inCall, h]) (by simp [Engine.configuring, h])).1 hron
    | con h hcon => exact (written (by simp [Engine.inCall, h]) (by simp [Engine.configuring, h])).2 hcon
  · exact (hi b).1.1 (.inl (.inl hf)) htar

/-- Settles O57: each move of a bus keeps its clauses, and they exclude the three reads of an unwritten value. -/
theorem nothingUnwrittenIsRead : Obligations.NothingUnwrittenIsRead := by
  intro s hi
  refine ⟨fun t hstep => ?_, fun ag b r hf => hi.not_unwrittenRead ag b r (step_fault hf)⟩
  rw [writtenInv_iff] at hi ⊢
  exact fun b => ((step_moved hstep).2 b).written (hi b)

end Sys2Proof.Machine
end

section
/-! SUPPORT. Single steps run to their end, with everything they leave: obligations O22, O28, O34 and O35. -/

namespace Sys2Proof.Machine

open Sys2Proof.Config

/-! ## An engine's own step -/

theorem exec_setbaud_eng {b : BusId} {s : State} (h : s.cur = .eng b) : exec (.setbaud b) s = setbaudStep b s := by
  simp only [exec, execSetbaud, h]

theorem exec_write_eng {b : BusId} {ns : Bool} {a : BitVec ADDR_WIDTH} {s : State} (h : s.cur = .eng b) :
    exec (.write b ns a) s = writeCallStep b s := by
  simp only [exec, execWrite, h]

/-- A move of the engine alone. -/
theorem goto_frame (b : BusId) (st : EngState) (sub : Nat) (s : State) :
    MovedTo b st sub s (goto b st sub s) ∧ (goto b st sub s).ctl b = s.ctl b ∧ OnlyBus b s (goto b st sub s) ∧
      SameCores s (goto b st sub s) := by
  rw [goto_eq]
  exact ⟨State.eng_setEng .., State.ctl_setEng .., (OnlyBus.refl b s).setEng _, fun _ => State.coreOf_setEng ..⟩

/-! ## SETBAUD's check -/

theorem setbaudStep_check {b : BusId} {s : State} (h : (s.eng b).state = .CHECK) :
    setbaudStep b s = if (s.eng b).configured then baudCheck b .PROGRAM 0 s
      else fatal (.NotConfigured (.eng b) b .SETBAUD) := by
  simp only [setbaudStep, h]

/-- Settles O22: CHECK is the CONFIGURED check, then the frequency's, and neither writes a register. -/
theorem setbaudRefusesBeforeAnyWrite : Obligations.SetbaudRefusesBeforeAnyWrite := by
  rintro b s ⟨hcur, hst, _⟩
  rw [exec_setbaud_eng hcur, setbaudStep_check hst]
  refine ⟨fun hc => ?unconfigured, fun hc hbad hwait => ?badFrequency, fun hc hgood hrefuse hspk => ?badSpike⟩
  case unconfigured => rw [hc]; rfl
  case badFrequency =>
    obtain ⟨heng, hctl, honly, hother, hframes, _, hret⟩ := returnResult_spec b .InvalidBaudrate 0 s
    refine ⟨returnResult b .InvalidBaudrate 0 s, ?_, hret hwait, hctl, by rw [heng], honly, hother, hframes⟩
    rw [if_pos hc, baudCheck, if_pos hbad]
  case badSpike =>
    have hspk : spkRefused s.params (s.eng b).operands.freq.toNat = true := by
      simpa [spkRefused, hrefuse, SPKLEN_WIDTH, baudSpk] using hspk
    rw [if_pos hc, baudCheck, if_neg (by rw [hgood]; decide), if_pos hspk]
    rfl

/-! ## An accepted request -/

/-- Settles O28: each request is `issueRequest` with its own part of the re-initialised context. -/
theorem anIdleEngineAcceptsARequest : Obligations.AnIdleEngineAcceptsARequest := by
  rintro c b s ⟨hcur, hready⟩ hidle
  have issued : ∀ i load, exec i s = issueRequest c b load s → ∃ t, exec i s = .next t ∧
      t.eng b = { load (s.coreOf c).record (s.eng b).reinit with
        requester := c, operands := (s.coreOf c).record, sub := 0 } ∧
      t.ctl b = s.ctl b ∧
      t.coreOf c = { s.coreOf c with frame := { (s.coreOf c).frame with phase := .waitEng b } } ∧
      OnlyBus b s t ∧ SameOtherCore c s t ∧ t.oracle = s.oracle := fun i load hi =>
    ⟨_, hi.trans (issueRequest_idle hready hidle), by simp, by simp, by simp,
      ((OnlyBus.refl b s).setEng _).setCore _ _, fun c' hc => by simp [State.coreOf_setCore_ne _ _ hc], rfl⟩
  refine ⟨?configure, ?setbaud, fun ns a => ?write, fun ns a => ?read, fun a => ?transfer⟩
  case configure => exact issued _ loadConfigure (by simp only [exec, execConfigure, hcur])
  case setbaud => exact issued _ loadSetbaud (by simp only [exec, execSetbaud, hcur])
  case write => exact issued _ (loadWrite ns a) (by simp only [exec, execWrite, hcur])
  case read => exact issued _ (loadRead ns a) (by simp only [exec, execRead, hcur])
  case transfer => exact issued _ (loadTransfer a) (by simp only [exec, execTransfer, hcur])

/-! ## The drain wait -/

/-- R31: the flag, with `TX_EMPTY_CTRL` written. -/
theorem Ctl.txEmpty_of_ctrl {x : Ctl} {ctrl : Bool} (h : x.con.txEmptyCtrl = some ctrl) :
    x.txEmpty = some (decide (x.txq = [] ∧ (ctrl = true → x.inflight = none))) := by
  have hq : x.txq.isEmpty = decide (x.txq = []) := by cases x.txq <;> rfl
  have hf : x.inflight.isNone = decide (x.inflight = none) := by cases x.inflight <;> rfl
  cases ctrl <;> simp [Ctl.txEmpty, h, hq, hf]

theorem pollAgain_budget (b : BusId) (n : Nat) (s : State) : pollAgain b true n s = goto b (s.eng b).state n s := rfl

/-- Without a budget the poll is repeated, by an engine that does not move (R143). -/
theorem pollAgain_without_budget {b : BusId} {n : Nat} {s : State} (h : (s.eng b).sub = 0) :
    pollAgain b false n s = s := goto_self rfl h

theorem writeCallStep_drainWait {b : BusId} {s : State} {drained : Bool} (h : (s.eng b).state = .WAIT_TX_EMPTY)
    (h0 : (s.eng b).sub = 0) (hd : (s.ctl b).txEmpty = some drained) :
    writeCallStep b s = .next (if drained then goto b .CHECK_ABORT 0 s else pollAgain b (s.eng b).budget 1 s) := by
  cases drained <;> simp [writeCallStep, h, h0, hd]

theorem writeCallStep_drainWait_unwritten {b : BusId} {s : State} (h : (s.eng b).state = .WAIT_TX_EMPTY)
    (h0 : (s.eng b).sub = 0) (hn : (s.ctl b).con.txEmptyCtrl = none) :
    writeCallStep b s = .fault (.UnwrittenRead (.eng b) b .CON) := by
  simp [writeCallStep, h, h0, Ctl.txEmpty, hn, fatal]

/-- Settles O34, by whether the queue is drained and, if not, whether there is a budget. -/
theorem drainWaitPassesOnceDrained : Obligations.DrainWaitPassesOnceDrained := by
  rintro b ns a s ⟨hcur, hst, hsub⟩
  rw [exec_write_eng hcur]
  refine ⟨fun ctrl hctrl => ?written, fun hnone => ?unwritten⟩
  case unwritten => exact writeCallStep_drainWait_unwritten hst hsub hnone
  case written =>
    intro drained
    rw [writeCallStep_drainWait hst hsub (Ctl.txEmpty_of_ctrl hctrl)]
    by_cases hd : drained
    · obtain ⟨hmove, hctl, honly, hcores⟩ := goto_frame b .CHECK_ABORT 0 s
      exact ⟨goto b .CHECK_ABORT 0 s, by rw [if_pos (decide_eq_true hd)], hctl, honly, hcores, fun _ => hmove, absurd hd,
        absurd hd⟩
    · rw [if_neg (by rw [decide_eq_false hd]; decide)]
      cases hb : (s.eng b).budget with
      | true =>
        obtain ⟨hmove, hctl, honly, hcores⟩ := goto_frame b .WAIT_TX_EMPTY 1 s
        exact ⟨goto b .WAIT_TX_EMPTY 1 s, by rw [pollAgain_budget, hst], hctl, honly, hcores, (absurd · hd),
          fun _ _ => hmove, nofun⟩
      | false =>
        exact ⟨s, by rw [pollAgain_without_budget hsub], rfl, .refl b s, fun _ => rfl, (absurd · hd), nofun,
          fun _ _ => rfl⟩

/-! ## The abort check -/

/-- The engine context after an abort-source value `v` has been read (R146). -/
def Engine.noted (v : Word) (e : Engine) : Engine :=
  if v = 0 then e else { e with abort := true, lastabrt := v, kabrt := e.k }

theorem noteAbort_eq (b : BusId) (v : Word) (s : State) : noteAbort b v s = s.setEng b ((s.eng b).noted v) := by
  unfold noteAbort Engine.noted
  split
  · rw [State.setEng_eng]
  · rfl

/-- Only the abort's own fields tell. -/
theorem Engine.noted_call (v : Word) (e : Engine) :
    (e.noted v).k = e.k ∧ (e.noted v).len = e.len ∧ (e.noted v).ns = e.ns := by
  unfold Engine.noted
  split <;> exact ⟨rfl, rfl, rfl⟩

theorem Engine.noted_needsStop (v : Word) (e : Engine) :
    (e.noted v).needsStop = true ↔ (e.noted v).abort = true ∨ (e.k + 1 = e.len ∧ e.ns = false) := by
  obtain ⟨hk, hlen, hns⟩ := e.noted_call v
  simp [Engine.needsStop, Engine.last, hk, hlen, hns]

/-- The engine context once a byte is done: the next byte from the loop's entry state, or FINISH (R146, R158). -/
def Engine.advanced (first : EngState) (e : Engine) : Engine :=
  if e.k + 1 < e.len then { e with state := first, sub := 0, k := e.k + 1 } else { e with state := .FINISH, sub := 0 }

theorem goto_setEng (b : BusId) (st : EngState) (sub : Nat) (s : State) (e : Engine) :
    goto b st sub (s.setEng b e) = s.setEng b { e with state := st, sub := sub } := by
  simp [goto]

theorem nextByte_setEng (b : BusId) (first : EngState) (s : State) (e : Engine) :
    nextByte b first (s.setEng b e) = s.setEng b (e.advanced first) := by
  unfold nextByte Engine.advanced
  simp only [State.eng_setEng, State.setEng_setEng, goto_setEng]
  split <;> rfl

theorem writeCallStep_checkAbort {b : BusId} {s : State} {e1 : Engine} (h : (s.eng b).state = .CHECK_ABORT)
    (he : e1 = (s.eng b).noted (s.ctl b).abrtSrc) :
    writeCallStep b s = .next ((s.setCtl b { s.ctl b with abrtSrc := 0 }).setEng b
      (if e1.needsStop then { e1 with state := .WAIT_STOP, sub := 0 } else e1.advanced .ISSUE)) := by
  subst he
  simp only [writeCallStep, h, noteAbort_eq, readAbrtSrc, State.eng_setCtl, State.eng_setEng, goto_setEng, nextByte_setEng]
  split <;> rfl

/-- Settles O35, by whether the stop wait follows and, if not, whether another byte does. -/
theorem checkAbortReadsAndClears : Obligations.CheckAbortReadsAndClears := by
  rintro b ns a sub s ⟨hcur, hst, _⟩
  intro e v e1 stops
  obtain ⟨hk, hlen, _⟩ := e.noted_call v
  have hstops : e1.needsStop = true ↔ stops := e.noted_needsStop v
  refine ⟨_, (exec_write_eng hcur).trans (writeCallStep_checkAbort (e1 := e1) hst rfl), by simp,
    ((OnlyBus.refl b s).setCtl _).setEng _, fun _ => rfl, fun hs => ?stop, fun hs hnext => ?next, fun hs hend => ?finish⟩
  case stop => rw [State.eng_setEng, if_pos (hstops.2 hs)]
  case next =>
    rw [State.eng_setEng, if_neg (mt hstops.1 hs), Engine.advanced, if_pos (hk ▸ hlen ▸ hnext)]
    exact congrArg (fun k => ({ e1 with state := .ISSUE, sub := 0, k := k + 1 } : Engine)) hk
  case finish =>
    rw [State.eng_setEng, if_neg (mt hstops.1 hs), Engine.advanced, if_neg (hk ▸ hlen ▸ hend)]

end Sys2Proof.Machine
end

section
/-! SUPPORT. What one step can do to the cores, the lock bank and memory: each step is run once here, into the moves of
`SharedEdge`, with what the buses, the inputs and the agent do left out; the invariants of these parts are then read off the
edges. -/

namespace Sys2Proof.Machine

open Sys2Proof.Config

/-- A lock set to what it is stays as it is. -/
@[simp] theorem State.setLock_lock (s : State) (n : LockId) : s.setLock n (s.lock n) = s := by
  simp [State.setLock, State.lock]

/-! ## The parts shared by the agents -/

/-- The state without its buses, inputs and agent: the cores, the lock bank, memory and the parameters. -/
def State.shared (s : State) : State :=
  { s with bus := ⟨⟨.reset, .reset⟩, ⟨.reset, .reset⟩⟩, oracle := .free, cur := .core .core0 }

/-- What a step of core `c`, or an engine's step for it, keeps of the core whatever else it does: the form of the host
variables, and no fewer writes and release fences than before. -/
structure CoreKeeps (c : CoreId) (k k' : Core) : Prop where
  vars : varsWf k.vars = true → varsWf k'.vars = true
  nWrites : k.nWrites ≤ k'.nWrites
  fences : (k.relView.get c).fences ≤ (k'.relView.get c).fences

/-- One move of the cores, the lock bank or memory. -/
inductive SharedEdge (s : State) : State → Prop
  /-- A core goes on, claiming no lock. -/
  | core (c : CoreId) (k : Core) (hk : CoreKeeps c (s.coreOf c) k) (hc : k.claims.Subperm (s.coreOf c).claims) :
      SharedEdge s (s.setCore c k)
  /-- A core's test-and-set claims a free lock (R116). -/
  | claimed (c : CoreId) (n : LockId) (l : LockReg) (k : Core) (hfree : (s.lock n).claimed = false)
      (hl : l.claimed = true) (hk : CoreKeeps c (s.coreOf c) k) (hc : k.claims.Subperm (n :: (s.coreOf c).claims)) :
      SharedEdge s ((s.setLock n l).setCore c k)
  /-- A core clears a lock it has claimed (R118). -/
  | cleared (c : CoreId) (n : LockId) (l : LockReg) (k : Core) (hk : CoreKeeps c (s.coreOf c) k)
      (hc : (n :: k.claims).Subperm (s.coreOf c).claims) : SharedEdge s ((s.setLock n l).setCore c k)
  /-- The bank answers an access that waits at its own port. -/
  | bank (q : List (CoreId × LkaWord)) (n : LockId) (l : LockReg) (hq : s.lkaQ ≠ []) :
      SharedEdge s ((s.setLkaQ q).setLock n l)
  /-- A read counts the announced writes it races with (R61). -/
  | counted (c : CoreId) (a : Nat) : SharedEdge s (markRaced c a s)
  /-- A byte is written (R58). -/
  | wrote {c : CoreId} {a : Nat} {v : Byte} {t : State} (hw : memWrite c a v s = some t) : SharedEdge s t
  /-- A write is announced (R61). -/
  | announced (c : CoreId) (a : Nat) (v : Byte) (num : Nat) (hin : s.params.inMemory a = true)
      (hnum : (s.ahead.Pairwise fun new old => old.num < new.num) → ∀ w ∈ s.ahead, w.num < num) :
      SharedEdge s (s.setAhead (⟨num, a, v, c, none⟩ :: s.ahead))

/-- From `s` to `t` the cores, the lock bank and memory make some moves, one after the other. -/
def SharedMove (s t : State) : Prop := Relation.ReflTransGen SharedEdge s.shared t.shared

theorem SharedMove.same {s t : State} (h : t.shared = s.shared) : SharedMove s t := by
  rw [SharedMove, h]
theorem SharedMove.refl (s : State) : SharedMove s s := .same rfl
theorem SharedMove.trans {s t u : State} (h : SharedMove s t) (g : SharedMove t u) : SharedMove s u :=
  Relation.ReflTransGen.trans h g
theorem SharedMove.edge {s t u : State} (h : SharedEdge s.shared u) (hu : t.shared = u) : SharedMove s t := by
  rw [SharedMove, hu]
  exact .single h

/-- What every edge keeps, and what the shared parts alone tell, is kept by a move. -/
theorem SharedMove.keeps {P : State → Prop} (hshared : ∀ s, P s ↔ P s.shared)
    (hedge : ∀ s t, SharedEdge s t → P s → P t) {s t : State} (h : SharedMove s t) (hs : P s) : P t := by
  have run : ∀ {u v}, Relation.ReflTransGen SharedEdge u v → P u → P v := fun h hu => by
    induction h with
    | refl => exact hu
    | tail _ he ih => exact hedge _ _ he ih
  exact (hshared t).2 (run h ((hshared s).1 hs))

/-- The outcome, if a next state, is `s` after some moves. -/
def SharedRuns (s : State) : Out → Prop
  | .next t => SharedMove s t
  | .fault _ => True
  | .refused _ => True

theorem SharedRuns.of_next {s : State} {o : Out} (h : ∀ t, o = .next t → SharedMove s t) : SharedRuns s o := by
  cases o with
  | next t => exact h t rfl
  | fault _ => trivial
  | refused _ => trivial
theorem SharedRuns.next {s t : State} {o : Out} (h : SharedRuns s o) (ho : o = .next t) : SharedMove s t := by
  subst ho; exact h

/-! ## A core goes on -/

section Cores

variable {c : CoreId} {k k' : Core} {s t : State}

/-- A core whose variables, writes and fences stand keeps them. -/
theorem CoreKeeps.of_same (hv : k'.vars = k.vars) (hn : k'.nWrites = k.nWrites) (hr : k'.relView = k.relView) :
    CoreKeeps c k k' := ⟨fun h => hv ▸ h, hn.ge, hr ▸ le_rfl⟩

theorem SharedMove.core (hk : CoreKeeps c (s.coreOf c) k) (hc : k.claims.Subperm (s.coreOf c).claims) :
    SharedMove s (s.setCore c k) :=
  .edge (.core c k hk hc) rfl
theorem SharedMove.claimed {n : LockId} {l : LockReg} (hfree : (s.lock n).claimed = false) (hl : l.claimed = true)
    (hk : CoreKeeps c (s.coreOf c) k) (hc : k.claims.Subperm (n :: (s.coreOf c).claims)) :
    SharedMove s ((s.setLock n l).setCore c k) :=
  .edge (.claimed c n l k hfree hl hk hc) rfl
theorem SharedMove.cleared {n : LockId} {l : LockReg} (hk : CoreKeeps c (s.coreOf c) k)
    (hc : (n :: k.claims).Subperm (s.coreOf c).claims) : SharedMove s ((s.setLock n l).setCore c k) :=
  .edge (.cleared c n l k hk hc) rfl
/-- A core that claims what it did, with its variables, writes and fences standing. -/
theorem SharedMove.core_same (hc : k.claims = (s.coreOf c).claims) (hv : k.vars = (s.coreOf c).vars)
    (hn : k.nWrites = (s.coreOf c).nWrites) (hr : k.relView = (s.coreOf c).relView) : SharedMove s (s.setCore c k) :=
  .core (.of_same hv hn hr) (hc ▸ .refl _)

theorem Core.claims_congr (hh : k'.held = k.held) (hs : k'.saved = k.saved)
    (hf : k'.frame.phase.claims = k.frame.phase.claims) : k'.claims = k.claims := by
  unfold Core.claims
  rw [hh, hs, hf]

/-- A core that moves on inside its frame claims what its new position claims. -/
theorem Core.claims_subperm (hh : k'.held = k.held) (hs : k'.saved = k.saved)
    (hf : k'.frame.phase.claims.Subperm k.frame.phase.claims) : k'.claims.Subperm k.claims := by
  unfold Core.claims
  rw [hh, hs]
  exact (List.subperm_append_left _).2 ((List.subperm_append_right _).2 hf)

/-- A core goes to a position that claims no lock. -/
theorem SharedMove.position (c : CoreId) (f : Frame) (s : State) (hf : f.phase.claims = []) :
    SharedMove s (s.setCore c { s.coreOf c with frame := f }) := by
  refine .core (.of_same rfl rfl rfl) (Core.claims_subperm rfl rfl ?_)
  rw [hf]
  exact List.nil_subperm

theorem SharedMove.setPhase {p : CorePhase} (h : SharedMove s t) (hp : p.claims = []) : SharedMove s (setPhase c p t) :=
  h.trans (.position c _ t hp)
theorem SharedMove.nextLine (h : SharedMove s t) : SharedMove s (nextLine c t) := h.trans (.position c _ t rfl)
theorem setVar_shared (c : CoreId) (r v : Nat) (s : State) : SharedMove s (setVar c r v s) :=
  SharedMove.nextLine (.core ⟨fun h => varsWf_set h r v, le_rfl, le_rfl⟩ (.refl _))
theorem branch_shared (c : CoreId) (taken : Bool) (l : Nat) (s : State) : SharedMove s (branch c taken l s) := by
  unfold branch
  split
  · exact .position c _ s rfl
  · exact (SharedMove.refl s).nextLine

/-- A delivered result changes no claim: the waiting position and the one with the result hold no lock. -/
theorem Frame.claims_deliver (b : BusId) (r : Result) (idx : Nat) (f : Frame) :
    (f.deliver b r idx).phase.claims = f.phase.claims := by
  unfold Frame.deliver
  split
  next h => rw [h]; rfl
  next => rfl
theorem Core.claims_deliver (b : BusId) (r : Result) (idx : Nat) (k : Core) : (k.deliver b r idx).claims = k.claims := by
  simp [Core.claims, Core.deliver, Frame.claims_deliver, List.flatMap_map]

theorem returnResult_shared (b : BusId) (r : Result) (idx : Nat) (s : State) : SharedMove s (returnResult b r idx s) := by
  rw [returnResult_eq]
  exact SharedMove.trans (t := s.setEng b _) (.same rfl) (.core_same (Core.claims_deliver ..) rfl rfl rfl)

/-! ## Memory -/

theorem memRead_shared {a : Nat} {d : Byte} (h : memRead c a s = some (d, t)) : SharedMove s t := by
  obtain ⟨o, l, rfl⟩ := memRead_state h
  rcases memRead_ahead h with hl | hl
  · obtain rfl : l = s.ahead := hl
    exact .same rfl
  · obtain rfl : l = (markRaced c a s).ahead := hl
    exact .edge (.counted c a) rfl

/-- A write that is made is inside the launch memory: what it changes. -/
theorem memWrite_some {c : CoreId} {a : Nat} {v : Byte} {s t : State} (h : memWrite c a v s = some t) :
    s.params.inMemory a = true ∧ t = ((s.setMem (s.mem.write a v)
      (⟨a, v, s.mem.read a, c, (s.coreOf c).nWrites + 1, (s.coreOf c).acqView⟩ :: s.writes)).setAhead
        (s.ahead.filter fun w => !w.performedBy c a v (s.coreOf c).acqView)).setCore c
          { s.coreOf c with nWrites := (s.coreOf c).nWrites + 1 } := by
  cases hin : s.params.inMemory a
  · rw [memWrite_out hin] at h
    cases h
  · rw [memWrite_in hin] at h
    exact ⟨rfl, (Option.some.inj h).symm⟩

theorem memWrite_shared {a : Nat} {v : Byte} (h : memWrite c a v s = some t) : SharedMove s t := by
  obtain ⟨hin, rfl⟩ := memWrite_some h
  exact .edge (.wrote (memWrite_in (s := s.shared) (v := v) hin)) rfl

theorem announce_shared (c : CoreId) (a : Nat) (v : Byte) (s : State) : SharedRuns s (announce c a v s) := by
  refine .of_next fun t h => ?_
  obtain rfl | ⟨hin, num, rfl, hnum⟩ := announce_cases h
  · exact .refl t
  · exact .edge (.announced c a v num hin hnum) rfl

end Cores

/-! ## The engine -/

section Engine

variable {b : BusId} {s : State}

theorem callReturn_shared (b : BusId) (r : Result × Nat) (s : State) : SharedMove s (callReturn b r s) := by
  unfold callReturn
  dsimp only
  split
  · exact .same rfl
  · exact returnResult_shared ..

theorem entryChecks_shared (b : BusId) (s : State) : SharedRuns s (entryChecks b s) := by
  unfold entryChecks
  dsimp only
  split
  · trivial
  split
  · exact callReturn_shared ..
  split
  · exact callReturn_shared ..
  · exact SharedMove.same rfl

theorem timeoutReturn_shared (b : BusId) (s : State) : SharedMove s (timeoutReturn b s) :=
  callReturn_shared b _ (s.setEng b _)

theorem finishCall_shared (b : BusId) (s : State) : SharedMove s (finishCall b s) := callReturn_shared b _ (s.setEng b _)

theorem budgetDraw_shared (b : BusId) (s : State) : SharedMove s (budgetDraw b s) := by
  obtain ⟨o, ho⟩ := drawTimeout_snd s
  simp only [budgetDraw, ho]
  split
  · split
    · exact timeoutReturn_shared b (s.setOracle o)
    · exact .same rfl
  · exact .same rfl

theorem stopDraw_shared (b : BusId) (s : State) : SharedMove s (stopDraw b s) := by
  unfold stopDraw
  split
  · exact timeoutReturn_shared b s
  · exact budgetDraw_shared b s

theorem pollAgain_shared (b : BusId) (budget : Bool) (n : Nat) (s : State) : SharedMove s (pollAgain b budget n s) := by
  unfold pollAgain
  split <;> exact .same rfl

theorem setupStep_shared (b : BusId) (first : EngState) (s : State) : SharedMove s (setupStep b first s) := by
  unfold setupStep
  split
  · exact .same rfl
  · unfold writeTar
    dsimp only
    split <;> exact .same rfl
  · exact .same rfl
  · exact .same rfl

theorem nextByte_shared (b : BusId) (first : EngState) (s : State) : SharedMove s (nextByte b first s) := by
  unfold nextByte
  dsimp only
  split <;> exact .same rfl

theorem noteAbort_shared (b : BusId) (v : Word) (s : State) : SharedMove s (noteAbort b v s) := by
  rw [noteAbort_eq]
  exact .same rfl

theorem issueWord_shared (b : BusId) (cmd : Bool) (dat : Byte) (wait : EngState) (s : State) :
    SharedRuns s (issueWord b cmd dat wait s) := by
  unfold issueWord pushDataCmd
  dsimp only
  split
  · trivial
  split
  · exact SharedMove.same rfl
  · trivial

theorem writeCallStep_shared (b : BusId) (s : State) : SharedRuns s (writeCallStep b s) := by
  unfold writeCallStep
  dsimp only
  split
  · exact entryChecks_shared b s
  · exact setupStep_shared ..
  · split
    · exact SharedMove.refl s
    next hr => exact (memRead_shared hr).trans (.same rfl)
  · exact issueWord_shared ..
  · split
    · trivial
    · exact SharedMove.same rfl
    · exact pollAgain_shared ..
  · exact budgetDraw_shared b s
  · have hread := noteAbort_shared b (readAbrtSrc b s).1 (readAbrtSrc b s).2
    split
    · exact SharedMove.trans hread (.same rfl)
    · exact SharedMove.trans hread (nextByte_shared ..)
  · split
    · exact SharedMove.same rfl
    · exact pollAgain_shared ..
  · exact stopDraw_shared b s
  · split
    · exact SharedMove.same rfl
    · exact nextByte_shared b _ (readClrStopDet b s)
  · exact finishCall_shared b s
  · exact SharedMove.refl s

theorem readCallStep_shared (b : BusId) (s : State) : SharedRuns s (readCallStep b s) := by
  unfold readCallStep
  dsimp only
  split
  · exact entryChecks_shared b s
  · exact setupStep_shared ..
  · split
    · exact SharedMove.same rfl
    · exact pollAgain_shared ..
  · exact issueWord_shared ..
  · split <;> exact SharedMove.same rfl
  · have hread := noteAbort_shared b (readAbrtSrc b s).1 (readAbrtSrc b s).2
    split
    · exact SharedMove.trans hread (pollAgain_shared ..)
    · exact SharedMove.trans hread (.same rfl)
  · exact budgetDraw_shared b s
  · unfold popDataCmd
    dsimp only
    split
    · exact SharedMove.same rfl
    · trivial
  · split
    · exact SharedMove.refl s
    next hw => exact (memWrite_shared hw).trans (nextByte_shared ..)
  · exact finishCall_shared b s
  · exact SharedMove.refl s

theorem baudCheck_shared (b : BusId) (st : EngState) (sub : Nat) (s : State) : SharedRuns s (baudCheck b st sub s) := by
  unfold baudCheck
  dsimp only
  split
  · exact returnResult_shared ..
  split
  · trivial
  · exact SharedMove.same rfl

theorem baudWrite_shared (b : BusId) (j : Nat) (s : State) : SharedMove s (baudWrite b j s) := by
  unfold baudWrite
  dsimp only
  split
  · exact .refl s
  split
  case h_6 =>
    unfold writeConSpeed
    dsimp only
    split <;> exact .same rfl
  all_goals exact .same rfl

theorem setbaudStep_shared (b : BusId) (s : State) : SharedRuns s (setbaudStep b s) := by
  have written : ∀ st sub j, SharedMove s (goto b st sub (baudWrite b j s)) := fun _ _ _ => baudWrite_shared ..
  unfold setbaudStep
  dsimp only
  split
  · split
    · exact baudCheck_shared ..
    · trivial
  · split <;> exact written ..
  · exact returnResult_shared ..
  · exact SharedMove.refl s

theorem configureStep_shared (b : BusId) (s : State) : SharedRuns s (configureStep b s) := by
  unfold configureStep
  dsimp only
  split
  case h_5 =>
    unfold writeConMode
    dsimp only
    split <;> exact SharedMove.same rfl
  case h_9 => exact baudCheck_shared ..
  case h_10 =>
    split
    · exact baudWrite_shared b _ s
    · exact returnResult_shared ..
  all_goals exact SharedMove.same rfl

theorem transferStep_shared (b : BusId) (s : State) : SharedRuns s (transferStep b s) := by
  unfold transferStep
  dsimp only
  split
  · unfold transferCheck
    dsimp only
    split
    · trivial
    split
    · exact returnResult_shared ..
    split
    · exact SharedMove.same rfl
    split
    · exact SharedMove.same rfl
    · exact returnResult_shared ..
  · split
    · exact writeCallStep_shared b s
    · exact readCallStep_shared b s

theorem engStep_shared (b : BusId) (s : State) : SharedRuns s (engStep b s) := by
  unfold engStep Engine.instr
  split
  · exact SharedMove.refl s
  split
  · exact configureStep_shared b (s.setCur (.eng b))
  · exact setbaudStep_shared b (s.setCur (.eng b))
  · exact writeCallStep_shared b (s.setCur (.eng b))
  · exact readCallStep_shared b (s.setCur (.eng b))
  · exact transferStep_shared b (s.setCur (.eng b))

end Engine

/-! ## The cores and the bank -/

section Cores

variable {s : State}

theorem issueRequest_shared (c : CoreId) (b : BusId) (load : Operands → Engine → Engine) (s : State) :
    SharedRuns s (issueRequest c b load s) := by
  unfold issueRequest
  dsimp only
  split
  · split
    · exact SharedMove.setPhase (.same rfl) rfl
    · trivial
  · exact SharedMove.nextLine (.core_same rfl rfl rfl rfl)
  · exact SharedMove.refl s

/-- SPIN_ACQ claims a lock where its test-and-set takes it; as a guard the core claims it still. -/
theorem execSpinAcq_shared (id : Nat) (s : State) : SharedRuns s (execSpinAcq id s) := by
  unfold execSpinAcq
  generalize s.cur.issuer = c
  dsimp only
  split
  · split
    · split
      · trivial
      · exact SharedMove.setPhase (.core_same rfl rfl rfl rfl) rfl
    · trivial
  next n saved hp =>
    cases hl : (s.lock n).claimed with
    | true =>
      rw [lockTAS_claimed hl]
      exact SharedMove.refl s
    | false =>
      rw [lockTAS_free hl, if_pos (one_shiftLeft_ne_zero n), setPhase_eq, State.coreOf_setCore, State.setCore_setCore]
      refine SharedMove.claimed hl rfl (.of_same rfl rfl rfl) ?_
      rw [Core.claims, Core.claims, hp]
      exact List.perm_middle.subperm
  next n saved hp =>
    rw [setPhase_eq, fenceAcq, State.coreOf_setCore, State.setCore_setCore]
    exact SharedMove.core_same (Core.claims_congr rfl rfl (by rw [hp]; rfl)) rfl rfl rfl
  next n saved hp =>
    rw [nextLine_eq, State.coreOf_setCore, State.setCore_setCore]
    refine SharedMove.core (.of_same rfl rfl rfl) ?_
    rw [Core.claims, Core.claims, hp]
    exact List.perm_middle.symm.subperm
  · exact SharedMove.refl s

/-- SPIN_REL claims the popped guard's lock until it has cleared it. -/
theorem execSpinRel_shared (id : Nat) (s : State) : SharedRuns s (execSpinRel id s) := by
  unfold execSpinRel
  generalize s.cur.issuer = c
  dsimp only
  split
  next hp =>
    split
    · trivial
    split
    next g r hh =>
      split
      · rw [setPhase_eq, State.coreOf_setCore, State.setCore_setCore]
        refine SharedMove.core (.of_same rfl rfl rfl) ?_
        rw [Core.claims, Core.claims, hp, hh]
        exact List.perm_middle.subperm
      · trivial
    · trivial
  next n saved hp =>
    rw [setPhase_eq, fenceRel, State.coreOf_setCore, State.setCore_setCore]
    refine SharedMove.core ⟨fun h => h, le_rfl, ?_⟩ (Core.claims_subperm rfl rfl (by rw [hp]; exact .refl _))
    cases c <;> exact le_max_left _ _
  next n saved hp =>
    rw [setPhase_eq, lockClr]
    refine SharedMove.cleared (.of_same rfl rfl rfl) ?_
    rw [State.coreOf_setLock, Core.claims, Core.claims, hp]
    exact List.perm_middle.symm.subperm
  next saved hp =>
    exact SharedMove.nextLine (.core_same rfl rfl rfl rfl)
  · exact SharedMove.refl s

theorem stwStep_shared (c : CoreId) (addr v : Nat) (s : State) : SharedRuns s (stwStep c addr v s) := by
  unfold stwStep
  dsimp only
  split
  · exact SharedMove.refl s
  next hw =>
    split
    · exact (memWrite_shared hw).setPhase rfl
    · exact (memWrite_shared hw).nextLine

theorem ldwStep_shared (c : CoreId) (r addr : Nat) (s : State) : SharedRuns s (ldwStep c r addr s) := by
  unfold ldwStep
  dsimp only
  split
  · exact SharedMove.refl s
  next hr =>
    split
    · exact (memRead_shared hr).setPhase rfl
    · exact (memRead_shared hr).trans (setVar_shared c r _ _)

theorem scriptStep_shared (c : CoreId) (l : ScriptLine) (s : State) : SharedRuns s (scriptStep c l s) := by
  cases l with
  | req _ _ => exact SharedMove.refl s
  | stb _ _ =>
    unfold scriptStep
    dsimp only
    split
    · exact SharedMove.refl s
    next hw => exact (memWrite_shared hw).nextLine
  | ldb r _ =>
    unfold scriptStep
    dsimp only
    split
    · exact SharedMove.refl s
    next hr => exact (memRead_shared hr).trans (setVar_shared c r _ _)
  | stw _ _ => exact stwStep_shared ..
  | ldw _ _ => exact ldwStep_shared ..
  | b _ => exact branch_shared ..
  | bOK _ => exact branch_shared ..
  | bNOK _ => exact branch_shared ..
  | bEQ _ _ => exact branch_shared ..
  | bVEQ _ _ _ => exact branch_shared ..
  | bVNE _ _ _ => exact branch_shared ..
  | addi rd _ _ => exact setVar_shared c rd _ s
  | halt => exact SharedMove.core_same rfl rfl rfl rfl
  | setIE _ => exact SharedMove.nextLine (.core_same rfl rfl rfl rfl)

theorem exec_request_shared {c : CoreId} {i : Instr} (hi : i.port = .request) (hc : s.cur = .core c) :
    SharedRuns s (exec i s) := by
  cases i with
  | configure b => simp only [exec, execConfigure, hc]; exact issueRequest_shared ..
  | setbaud b => simp only [exec, execSetbaud, hc]; exact issueRequest_shared ..
  | write b ns a => simp only [exec, execWrite, hc]; exact issueRequest_shared ..
  | read b ns a => simp only [exec, execRead, hc]; exact issueRequest_shared ..
  | transfer b a => simp only [exec, execTransfer, hc]; exact issueRequest_shared ..
  | spinAcq id => exact execSpinAcq_shared id s
  | spinRel id => exact execSpinRel_shared id s
  | cmdWrite _ _ _ => cases hi
  | cmdRead _ _ _ => cases hi
  | lockTas _ => cases hi
  | lockClr _ => cases hi

/-- Past its script's last line a core drops the ended handler's position. -/
theorem scriptEnd_shared (c : CoreId) (s : State) : SharedRuns s (scriptEnd c s) := by
  unfold scriptEnd
  dsimp only
  split
  next f r hs =>
    refine SharedMove.core (.of_same rfl rfl rfl) ?_
    rw [Core.claims, Core.claims, hs]
    exact (List.subperm_append_left _).2 (List.sublist_append_right _ _).subperm
  · exact SharedMove.refl s

theorem coreStep_shared (c : CoreId) (s : State) : SharedRuns s (coreStep c s) := by
  unfold coreStep
  dsimp only
  split
  · exact SharedMove.refl s
  split
  · exact scriptEnd_shared c s
  · split
    next hd => exact exec_request_shared (s := s.setCur (.core c)) (decodeErq_request hd) rfl
    · trivial
  · exact scriptStep_shared c _ (s.setCur (.core c))

/-- A handler starts with no claim of its own, over the preempted frame's. -/
theorem irqStep_shared (c : CoreId) (s : State) : SharedRuns s (irqStep c s) := by
  obtain ⟨o, ho⟩ := drawHandler_snd s
  unfold irqStep
  dsimp only
  split
  · rw [ho]
    exact SharedMove.trans (t := s.setOracle o) (.same rfl) (.core_same rfl rfl rfl rfl)
  · exact SharedMove.refl s

/-- LOCK_TAS touches the lock's register, and what the core has seen and read (R110). -/
theorem execLockTas_state {c : CoreId} (n : LockId) (hc : s.cur.issuer = c) : ∃ l v w,
    execLockTas n s = .next ((s.setLock n l).setCore c { s.coreOf c with pendView := v, lkaVal := w }) := by
  subst hc
  cases h : (s.lock n).claimed with
  | true =>
    exact ⟨s.lock n, (s.coreOf s.cur.issuer).pendView, 0, by
      simp only [execLockTas, lockTAS_claimed h, State.setLock_lock]⟩
  | false =>
    exact ⟨_, _, (1 : Word) <<< n.val, by
      simp only [execLockTas, lockTAS_free h, State.coreOf_setCore, State.setCore_setCore]; rfl⟩

theorem bankStep_shared (s : State) : SharedRuns s (bankStep s) := by
  unfold bankStep
  split
  · exact SharedMove.refl s
  next c w r hq =>
    have taken : ∀ n l, SharedMove s (((s.setLkaQ r).setCur (.bank c)).setLock n l) := fun n l =>
      .edge (.bank r n l (hq ▸ List.cons_ne_nil _ _ : s.lkaQ ≠ [])) rfl
    unfold decodeLka
    split
    · exact taken ..
    next =>
      obtain ⟨l, v, x, hl⟩ := execLockTas_state (s := (s.setLkaQ r).setCur (.bank c)) (lkaN w) rfl
      rw [exec, hl]
      exact (taken _ l).trans (.core_same rfl rfl rfl rfl)

end Cores

/-! ## One step of the machine -/

/-- A command word is a command's (R75). -/
theorem decodeCmdw_port (w : CmdWord) : (decodeCmdw w).port = .dataCmd := by
  unfold decodeCmdw
  split <;> rfl

theorem performStep_shared (b : BusId) (s : State) : SharedRuns s (performStep b s) := by
  unfold performStep
  split
  · exact SharedMove.refl s
  · refine .of_next fun t ht => ?_
    obtain ⟨y, o, rfl⟩ := performed_cases (decodeCmdw_port _) rfl ht
    exact .same rfl

theorem ctlLoad_shared (b : BusId) (s : State) : SharedRuns s (ctlLoad b s) := by
  unfold ctlLoad
  dsimp only
  split
  · split <;> exact SharedMove.same rfl
  · exact SharedMove.refl s

theorem ctlStop_shared (b : BusId) (s : State) : SharedRuns s (ctlStop b s) := by
  unfold ctlStop
  dsimp only
  split <;> exact SharedMove.same rfl

theorem ctlOtherAbort_shared (b : BusId) (s : State) : SharedRuns s (ctlOtherAbort b s) := by
  unfold ctlOtherAbort
  dsimp only
  split
  · obtain ⟨o, ho⟩ := drawAbort_snd s
    obtain ⟨o', ht⟩ := abortWith_spec b (drawAbort s).1.value (drawAbort s).2
    rw [ht, ho]
    exact SharedMove.same rfl
  · exact SharedMove.refl s

theorem runPick_shared (p : Pick) (s : State) : SharedRuns s (runPick p s) := by
  cases p with
  | core c => exact coreStep_shared c s
  | irq c => exact irqStep_shared c (s.setCur (.core c))
  | eng b => exact engStep_shared b s
  | load b => exact ctlLoad_shared b (s.setCur (.ctl b))
  | perform b => exact performStep_shared b s
  | stop b => exact ctlStop_shared b (s.setCur (.ctl b))
  | otherAbort b => exact ctlOtherAbort_shared b (s.setCur (.ctl b))
  | bank => exact bankStep_shared s
  | ahead c a v => exact announce_shared c a v (s.setCur (.core c))

/-- The inversion of a step for the shared parts. -/
theorem step_shared {s t : State} (h : step s = .next t) : SharedMove s t := by
  obtain ⟨o, ho⟩ := step_pick s
  exact SharedRuns.next (runPick_shared s.pick (s.setOracle o)) (ho ▸ h)

/-- An invariant of the shared parts that every edge keeps is kept by every step. -/
theorem step_keeps_shared {P : State → Prop} (hshared : ∀ s, P s ↔ P s.shared)
    (hedge : ∀ s t, SharedEdge s t → P s → P t) {s t : State} (hs : P s) (h : step s = .next t) : P t :=
  (step_shared h).keeps hshared hedge hs

end Sys2Proof.Machine
end

section
/-! SUPPORT. Mutual exclusion, the canonical form of the data and the log of writes, each kept by every edge of the shared
parts: obligations O15, O16 and O17. -/

namespace Sys2Proof.Machine

open Sys2Proof.Config

/-- What holds of the core that is replaced and, as before, of the others, holds of every core. -/
theorem State.coreOf_setCore_cases {P : CoreId → Core → Prop} {s : State} {c : CoreId} {k : Core} (hc : P c k)
    (hother : ∀ c', P c' (s.coreOf c')) (c' : CoreId) : P c' ((s.setCore c k).coreOf c') := by
  by_cases h : c' = c
  · subst h
    rwa [State.coreOf_setCore]
  · rw [State.coreOf_setCore_ne _ _ h]
    exact hother c'

/-! ## Mutual exclusion (R65, R112, R123) -/

/-- Mutual exclusion, core by core: a core claims no lock twice, and a lock it claims is claimed in the bank and by no other
core. -/
theorem mutexInv_iff (s : State) : s.MutexInv ↔ s.lkaQ = [] ∧ ∀ c, (s.coreOf c).claims.Nodup ∧
    ∀ n ∈ (s.coreOf c).claims, (s.lock n).claimed = true ∧ ∀ c', c' ≠ c → n ∉ (s.coreOf c').claims := by
  rw [State.MutexInv, List.nodup_append]
  refine and_congr_right fun _ => ⟨fun ⟨⟨h0, h1, hdisj⟩, hl⟩ c => ?_, fun h => ?_⟩
  · cases c with
    | core0 => exact ⟨h0, fun n hn => ⟨hl n (by simp [hn]), fun c' hc hn' => by
        cases c' with
        | core0 => exact hc rfl
        | core1 => exact hdisj n hn n hn' rfl⟩⟩
    | core1 => exact ⟨h1, fun n hn => ⟨hl n (by simp [hn]), fun c' hc hn' => by
        cases c' with
        | core0 => exact hdisj n hn' n hn rfl
        | core1 => exact hc rfl⟩⟩
  · obtain ⟨h0, hl0⟩ := h .core0
    obtain ⟨h1, hl1⟩ := h .core1
    refine ⟨⟨h0, h1, fun n hn m hm hnm => (hl0 n hn).2 .core1 nofun (hnm ▸ hm)⟩, fun n hn => ?_⟩
    rcases List.mem_append.1 hn with hn | hn
    · exact (hl0 n hn).1
    · exact (hl1 n hn).1

/-- Mutual exclusion after a move of core `c` and of the bank: of the locks `c` now claims each once, the bank has each as
claimed and the other cores have none; and the bank has not freed a lock of the others. -/
theorem State.MutexInv.of_core {s t : State} {c : CoreId} (hi : s.MutexInv) (hq : t.lkaQ = s.lkaQ)
    (hother : ∀ c', c' ≠ c → t.coreOf c' = s.coreOf c') (hnodup : (t.coreOf c).claims.Nodup)
    (hmine : ∀ n ∈ (t.coreOf c).claims, (t.lock n).claimed = true ∧ ∀ c', c' ≠ c → n ∉ (s.coreOf c').claims)
    (hbank : ∀ c', c' ≠ c → ∀ n ∈ (s.coreOf c').claims, (t.lock n).claimed = true) : t.MutexInv := by
  rw [mutexInv_iff] at hi ⊢
  refine ⟨hq.trans hi.1, fun c' => ?_⟩
  by_cases hc : c' = c
  · subst hc
    exact ⟨hnodup, fun n hn => ⟨(hmine n hn).1, fun c'' h => by rw [hother c'' h]; exact (hmine n hn).2 c'' h⟩⟩
  · rw [hother c' hc]
    refine ⟨(hi.2 c').1, fun n hn => ⟨hbank c' hc n hn, fun c'' h => ?_⟩⟩
    by_cases hc'' : c'' = c
    · subst hc''
      exact fun hn' => (hmine n hn').2 c' hc hn
    · rw [hother c'' hc'']
      exact ((hi.2 c').2 n hn).2 c'' h

theorem nodup_of_subperm {α : Type} {l l' : List α} (h : l.Subperm l') (hn : l'.Nodup) : l.Nodup :=
  let ⟨_, hp, hs⟩ := h
  hp.nodup_iff.1 (hn.sublist hs)

section Mutex

variable {s : State} {c : CoreId} {n : LockId} {l : LockReg} {k : Core}

/-- A core that goes on claims no more than before. -/
theorem State.MutexInv.core (hi : s.MutexInv) (hc : k.claims.Subperm (s.coreOf c).claims) : (s.setCore c k).MutexInv := by
  obtain ⟨_, hcores⟩ := (mutexInv_iff s).1 hi
  obtain ⟨hn, hmine⟩ := hcores c
  refine hi.of_core (c := c) rfl (fun c' => State.coreOf_setCore_ne s k) ?_ ?_ fun c' _ m hm => ((hcores c').2 m hm).1
  all_goals rw [State.coreOf_setCore]
  · exact nodup_of_subperm hc hn
  · exact fun m hm => hmine m (hc.subset hm)

/-- A lock that a test-and-set finds free was inside no interval (R110, R112). -/
theorem State.MutexInv.claim (hi : s.MutexInv) (hfree : (s.lock n).claimed = false) (hl : l.claimed = true)
    (hc : k.claims.Subperm (n :: (s.coreOf c).claims)) : ((s.setLock n l).setCore c k).MutexInv := by
  obtain ⟨_, hcores⟩ := (mutexInv_iff s).1 hi
  have unclaimed : ∀ c', n ∉ (s.coreOf c').claims := fun c' hn => by
    rw [((hcores c').2 n hn).1] at hfree
    cases hfree
  have bank : ∀ m, (s.lock m).claimed = true → ((s.setLock n l).lock m).claimed = true := fun m hm => by
    by_cases hmn : m = n
    · rw [hmn, State.lock_setLock, hl]
    · rw [State.lock_setLock_ne _ _ hmn, hm]
  refine hi.of_core (c := c) rfl (fun c' => State.coreOf_setCore_ne _ k) ?_ ?_
    fun c' _ m hm => bank m ((hcores c').2 m hm).1
  all_goals rw [State.coreOf_setCore]
  · exact nodup_of_subperm hc (List.nodup_cons.2 ⟨unclaimed c, (hcores c).1⟩)
  · intro m hm
    rcases List.mem_cons.1 (hc.subset hm) with rfl | hm
    · exact ⟨by rw [State.lock_setCore, State.lock_setLock, hl], fun c' _ => unclaimed c'⟩
    · exact ⟨bank m ((hcores c).2 m hm).1, ((hcores c).2 m hm).2⟩

/-- The lock that a core clears leaves the one interval it was inside (R111, R118). -/
theorem State.MutexInv.clear (hi : s.MutexInv) (hc : (n :: k.claims).Subperm (s.coreOf c).claims) :
    ((s.setLock n l).setCore c k).MutexInv := by
  obtain ⟨_, hcores⟩ := (mutexInv_iff s).1 hi
  obtain ⟨hn, hmine⟩ := hcores c
  obtain ⟨hnk, hk⟩ := List.nodup_cons.1 (nodup_of_subperm hc hn)
  have bank : ∀ m, m ≠ n → (s.lock m).claimed = true → ((s.setLock n l).lock m).claimed = true := fun m hmn hm => by
    rw [State.lock_setLock_ne _ _ hmn, hm]
  refine hi.of_core (c := c) rfl (fun c' => State.coreOf_setCore_ne _ k) ?_ ?_ fun c' hc' m hm => ?_
  · rwa [State.coreOf_setCore]
  · rw [State.coreOf_setCore]
    intro m hm
    obtain ⟨hl, hout⟩ := hmine m (hc.subset (List.mem_cons_of_mem n hm))
    exact ⟨bank m (fun h => hnk (h ▸ hm)) hl, hout⟩
  · have hmn : m ≠ n := fun h => (hmine n (hc.subset List.mem_cons_self)).2 c' hc' (h ▸ hm)
    exact bank m hmn ((hcores c').2 m hm).1

end Mutex

theorem SharedEdge.mutexInv {s t : State} (h : SharedEdge s t) (hi : s.MutexInv) : t.MutexInv := by
  cases h with
  | core c k _ hc => exact hi.core hc
  | claimed c n l k hfree hl _ hc => exact hi.claim hfree hl hc
  | cleared c n l k _ hc => exact hi.clear hc
  | bank _ _ _ hq => exact absurd hi.1 hq
  | counted => exact hi
  | @wrote c a v _ hw =>
    obtain ⟨_, rfl⟩ := memWrite_some hw
    exact hi.core (c := c) (k := { s.coreOf c with nWrites := (s.coreOf c).nWrites + 1 }) (.refl _)
  | announced => exact hi

/-- Settles O15, edge by edge. -/
theorem everyStepKeepsMutualExclusion : Obligations.EveryStepKeepsMutualExclusion :=
  fun _ _ hi h => step_keeps_shared (fun _ => Iff.rfl) (fun _ _ he => he.mutexInv) hi h

/-! ## Canonical data (R58, R86) -/

theorem varsWf_setCore {s : State} {c : CoreId} {k : Core} (hv : ∀ c', varsWf (s.coreOf c').vars = true)
    (hk : varsWf k.vars = true) : ∀ c', varsWf ((s.setCore c k).coreOf c').vars = true :=
  State.coreOf_setCore_cases (P := fun _ k' => varsWf k'.vars = true) hk hv

theorem SharedEdge.dataInv {s t : State} (h : SharedEdge s t) (hi : s.DataInv) : t.DataInv := by
  obtain ⟨hm, hv⟩ := hi
  cases h with
  | core c _ hk _ => exact ⟨hm, varsWf_setCore hv (hk.vars (hv c))⟩
  | claimed c _ _ _ _ _ hk _ => exact ⟨hm, varsWf_setCore hv (hk.vars (hv c))⟩
  | cleared c _ _ _ hk _ => exact ⟨hm, varsWf_setCore hv (hk.vars (hv c))⟩
  | bank => exact ⟨hm, hv⟩
  | counted => exact ⟨hm, hv⟩
  | @wrote c a v _ hw =>
    obtain ⟨_, rfl⟩ := memWrite_some hw
    exact ⟨Memory.wf_write hm a v, varsWf_setCore hv (hv c)⟩
  | announced => exact ⟨hm, hv⟩

/-- Settles O16, edge by edge: a write of memory or of a variable keeps the form. -/
theorem everyStepKeepsCanonicalData : Obligations.EveryStepKeepsCanonicalData :=
  fun _ _ hi h => step_keeps_shared (fun _ => Iff.rfl) (fun _ _ he => he.dataInv) hi h

/-! ## The log of writes (R58, R61) -/

section Log

variable {s : State} {c : CoreId}

/-- The log asks of the cores that no write and no release fence is taken back. -/
theorem State.LogInv.core {k : Core} (hi : s.LogInv) (hk : CoreKeeps c (s.coreOf c) k) : (s.setCore c k).LogInv := by
  obtain ⟨hm, hnewest, hseq, horder, hnums, hahead⟩ := hi
  have writes : ∀ c', (s.coreOf c').nWrites ≤ ((s.setCore c k).coreOf c').nWrites :=
    State.coreOf_setCore_cases (P := fun c' k' => (s.coreOf c').nWrites ≤ k'.nWrites) hk.nWrites fun _ => le_rfl
  have fences : ∀ c', ((s.coreOf c').relView.get c').fences ≤ (((s.setCore c k).coreOf c').relView.get c').fences :=
    State.coreOf_setCore_cases (P := fun c' k' => ((s.coreOf c').relView.get c').fences ≤ (k'.relView.get c').fences)
      hk.fences fun _ => le_rfl
  refine ⟨hm, hnewest, fun e he => (hseq e he).trans (writes e.core), horder, hnums, fun w hw => ?_⟩
  obtain ⟨hin, hraced⟩ := hahead w hw
  exact ⟨hin, fun c' f hr => ⟨(hraced c' f hr).1, (hraced c' f hr).2.trans (fences c')⟩⟩

/-- A read counts only announced writes of the other core, at the fences it has made. -/
theorem State.LogInv.markRaced (hi : s.LogInv) (a : Nat) : (markRaced c a s).LogInv := by
  obtain ⟨hm, hnewest, hseq, horder, hnums, hahead⟩ := hi
  refine ⟨hm, hnewest, hseq, horder, ?_, fun w hw => ?_⟩
  · rw [← List.pairwise_map (f := Ahead.num) (R := fun new old => old < new)] at hnums ⊢
    rwa [markRaced_nums]
  · obtain hw | ⟨u, hu, hraces, rfl⟩ := mem_markRaced hw
    · exact hahead w hw
    · refine ⟨(hahead u hu).1, fun c' f hr => ?_⟩
      simp only [Option.some.injEq, Prod.mk.injEq] at hr
      obtain ⟨rfl, rfl⟩ := hr
      simp only [Ahead.races, Bool.and_eq_true, decide_eq_true_eq] at hraces
      exact ⟨hraces.2.symm, le_rfl⟩

/-- The writes of a byte after a write: the new one first, at its own byte. -/
theorem memWrite_writesOf {a : Nat} {v : Byte} {t : State} (h : memWrite c a v s = some t) (a' : Nat) :
    t.writesOf a' = if a = a'
      then ⟨a, v, s.mem.read a, c, (s.coreOf c).nWrites + 1, (s.coreOf c).acqView⟩ :: s.writesOf a'
      else s.writesOf a' := by
  obtain ⟨_, rfl⟩ := memWrite_some h
  simp [State.writesOf, State.setMem, List.filter_cons]

/-- A write is the newest of its byte and of its core. -/
theorem State.LogInv.memWrite {a : Nat} {v : Byte} {t : State} (hi : s.LogInv) (hw : memWrite c a v s = some t) :
    t.LogInv := by
  obtain ⟨_, _, hseq', _, _, hahead'⟩ := hi.core (c := c) (k := { s.coreOf c with nWrites := (s.coreOf c).nWrites + 1 })
    ⟨id, Nat.le_succ _, le_rfl⟩
  obtain ⟨hm, hnewest, hseq, horder, hnums, _⟩ := hi
  have hwrites := memWrite_writesOf hw
  obtain ⟨_, rfl⟩ := memWrite_some hw
  refine ⟨Memory.wf_write hm a v, fun a' e he => ?newest, fun e he => ?seq, ?order, hnums.filter _,
    fun w hw => hahead' w (List.mem_of_mem_filter hw)⟩
  case newest =>
    change e.val = (s.mem.write a v).read a'
    rw [hwrites] at he
    split at he
    next h =>
      subst h
      cases he
      exact (Memory.read_write hm a v).symm
    next h => rw [Memory.read_write_ne _ _ (Ne.symm h), hnewest a' e he]
  case seq =>
    rcases List.mem_cons.1 he with rfl | he
    · simp
    · exact hseq' e he
  case order =>
    refine List.pairwise_cons.2 ⟨fun old ho hc => ?_, horder⟩
    obtain rfl : c = old.core := hc
    exact Nat.lt_succ_of_le (hseq old ho)

end Log

theorem SharedEdge.logInv {s t : State} (h : SharedEdge s t) (hi : s.LogInv) : t.LogInv := by
  cases h with
  | core _ _ hk _ => exact hi.core hk
  | claimed _ n l _ _ _ hk _ => exact State.LogInv.core (s := s.setLock n l) hi hk
  | cleared _ n l _ hk _ => exact State.LogInv.core (s := s.setLock n l) hi hk
  | bank => exact hi
  | counted c a => exact hi.markRaced a
  | wrote hw => exact hi.memWrite hw
  | announced c a v num hin hnum =>
    obtain ⟨hm, hnewest, hseq, horder, hnums, hahead⟩ := hi
    refine ⟨hm, hnewest, hseq, horder, List.pairwise_cons.2 ⟨hnum hnums, hnums⟩, fun w hw => ?_⟩
    rcases List.mem_cons.1 hw with rfl | hw
    · exact ⟨hin, nofun⟩
    · exact hahead w hw

/-- Settles O17, edge by edge. -/
theorem everyStepKeepsTheWriteLog : Obligations.EveryStepKeepsTheWriteLog :=
  fun _ _ hi h => step_keeps_shared (fun _ => Iff.rfl) (fun _ _ he => he.logInv) hi h

end Sys2Proof.Machine
end

section
/-! SUPPORT. What a read answers with every write of its byte ordered before it, and what a release and the acquire after it
order: obligations O18 and O19. -/

namespace Sys2Proof.Machine

open Sys2Proof.Config

/-! ## A read with no race (R58, R60) -/

section Read

variable {s : State} {c : CoreId} {a : Nat}

theorem mem_writesOf {e : WriteEv} : e ∈ s.writesOf a ↔ e ∈ s.writes ∧ e.addr = a := by
  simp [State.writesOf]

/-- Each core's writes stand in the log in its program order, the newest first (R61). -/
def State.InOrder (s : State) : Prop := s.writes.Pairwise fun new old => new.core = old.core → old.seq < new.seq

theorem State.LogInv.inOrder (hi : s.LogInv) : s.InOrder :=
  let ⟨_, _, _, horder, _⟩ := hi
  horder

/-- Of a byte's writes by one core each older one is ordered before the newest. -/
theorem State.InOrder.older_hb_newest {c' : CoreId} (hi : s.InOrder) (hone : ∀ e ∈ s.writesOf a, e.core = c')
    {e : WriteEv} (he : e ∈ (s.writesOf a).drop 1) : ∃ f ∈ s.writesOf a, e.hb f = true := by
  have horder : (s.writesOf a).Pairwise fun new old => new.core = old.core → old.seq < new.seq :=
    List.Pairwise.filter _ hi
  cases hw : s.writesOf a with
  | nil => simp [hw] at he
  | cons f r =>
    rw [hw] at he hone horder
    have hf : f.core = c' := hone f List.mem_cons_self
    have he' : e.core = c' := hone e (List.mem_cons_of_mem f he)
    have hlt : e.seq < f.seq := (List.pairwise_cons.1 horder).1 e he (hf.trans he'.symm)
    exact ⟨f, List.mem_cons_self, by simp [WriteEv.hb, hf, he', hlt]⟩

/-- A byte that one core alone has written reads as it is, where those writes are ordered before the read and the other core
has announced none. -/
theorem State.InOrder.memRead_unraced {c' : CoreId} (hi : s.InOrder) (hin : s.params.inMemory a = true)
    (hone : ∀ e ∈ s.writesOf a, e.core = c') (hahead : ∀ w ∈ s.ahead, w.addr = a → w.core = c)
    (hbefore : ∀ e ∈ s.writesOf a, e.before c (s.coreOf c).acqView = true) :
    memRead c a s = some (s.mem.read a, s) := by
  refine memRead_single hin ?_
  rw [readChoices_ordered hahead hbefore]
  have hnone : (((s.writesOf a).drop 1).filter fun e => !((s.writesOf a).any fun f => e.hb f)) = [] := by
    refine List.filter_eq_nil_iff.2 fun e he => ?_
    rw [List.any_eq_true.2 (hi.older_hb_newest hone he)]
    decide
  rw [hnone, List.map_nil]

/-- A core's own writes are ordered before its reads. -/
theorem State.InOrder.memRead_own (hi : s.InOrder) (hin : s.params.inMemory a = true)
    (hown : ∀ e ∈ s.writesOf a, e.core = c) (hahead : ∀ w ∈ s.ahead, w.addr = a → w.core = c) :
    memRead c a s = some (s.mem.read a, s) :=
  hi.memRead_unraced hin hown hahead fun e he => by simp [WriteEv.before, hown e he]

end Read

/-- Settles O18: the write keeps the log, and adds a write of the core's own. -/
theorem ownWritesAreReadBack : Obligations.OwnWritesAreReadBack := by
  intro c a s hi hin hown hahead
  refine ⟨hi.inOrder.memRead_own hin hown hahead, fun v => ?_⟩
  have hm : s.mem.wf = true := hi.1
  have hw := memWrite_in (c := c) (v := v) hin
  refine ⟨_, hw, Memory.read_write hm a v, ?_, fun a' h => Memory.read_write_ne s.mem v h⟩
  have hown' := memWrite_writesOf hw a
  rw [if_pos rfl] at hown'
  have hread := (hi.memWrite hw).inOrder.memRead_own (a := a) hin (by
    rw [hown']
    intro e he
    rcases List.mem_cons.1 he with rfl | he
    · rfl
    · exact hown e he) fun w h => hahead w (List.mem_of_mem_filter h)
  rw [hread]
  exact congrArg (fun d => some (d, _)) (Memory.read_write hm a v)

/-! ## Release and acquire (R62 to R64) -/

@[simp] theorem View.get_join (u v : View) (c : CoreId) : (u.join v).get c = (u.get c).join (v.get c) := by
  cases c <;> rfl
@[simp] theorem Clock.writes_join (x y : Clock) : (x.join y).writes = max x.writes y.writes := rfl

/-- A write ordered before an access that has acquired `u` is ordered before one that has acquired more. -/
theorem WriteEv.before_of_le {e : WriteEv} {c : CoreId} {u : View} (h : e.seq ≤ (u.get e.core).writes) :
    e.before c u = true := by
  simp [WriteEv.before, h]

section Handover

variable {s t : State} {c : CoreId} {n : LockId} {saved : Bool}

/-- The release fence of SPIN_REL (R118). -/
theorem execSpinRel_fence {i : Nat} (hcur : s.cur = .core c) (hp : (s.coreOf c).frame.phase = .relFence n saved) :
    exec (.spinRel i) s = .next (setPhase c (.relClr n saved) (fenceRel c s)) := by
  simp only [exec, execSpinRel, hcur, Agent.issuer, hp]
/-- The clear of SPIN_REL (R118). -/
theorem execSpinRel_clear {i : Nat} (hcur : s.cur = .core c) (hp : (s.coreOf c).frame.phase = .relClr n saved) :
    exec (.spinRel i) s = .next (setPhase c (.relIE saved) (lockClr c n s)) := by
  simp only [exec, execSpinRel, hcur, Agent.issuer, hp]
/-- The test-and-set of SPIN_ACQ that finds its lock free (R116). -/
theorem execSpinAcq_claim {i : Nat} (hcur : s.cur = .core c) (hp : (s.coreOf c).frame.phase = .acqTas n saved)
    (hfree : (s.lock n).claimed = false) :
    exec (.spinAcq i) s = .next (setPhase c (.acqFence n saved) (lockTAS c n s).2) := by
  simp only [exec, execSpinAcq, hcur, Agent.issuer, hp]
  rw [lockTAS_free hfree, if_pos (one_shiftLeft_ne_zero n)]
/-- The acquire fence of SPIN_ACQ (R116). -/
theorem execSpinAcq_fence {i : Nat} (hcur : s.cur = .core c) (hp : (s.coreOf c).frame.phase = .acqFence n saved) :
    exec (.spinAcq i) s = .next (setPhase c (.acqPush n saved) (fenceAcq c s)) := by
  simp only [exec, execSpinAcq, hcur, Agent.issuer, hp]

/-- Memory, its log and the announced writes are as before. -/
structure SameStore (s t : State) : Prop where
  params : t.params = s.params
  mem : t.mem = s.mem
  writes : t.writes = s.writes
  ahead : t.ahead = s.ahead

theorem SameStore.of_setCur {ag : Agent} (h : SameStore (s.setCur ag) t) : SameStore s t :=
  ⟨h.params, h.mem, h.writes, h.ahead⟩

theorem SameStore.trans {u : State} (h : SameStore s t) (g : SameStore t u) : SameStore s u :=
  ⟨g.params.trans h.params, g.mem.trans h.mem, g.writes.trans h.writes, g.ahead.trans h.ahead⟩

/-- Fence and clear of SPIN_REL free the lock, and its clears have then published every write ordered before the fence: the
core's own by its count, the other core's by what the core has acquired (R62 to R64). -/
theorem release_publishes {i : Nat} {s1 s2 : State} (hcur : s.cur = .core c)
    (hp : (s.coreOf c).frame.phase = .relFence n saved) (h1 : exec (.spinRel i) s = .next s1)
    (h2 : exec (.spinRel i) s1 = .next s2) :
    SameStore s s2 ∧ (s2.lock n).claimed = false ∧
      ∀ e : WriteEv, e.seq ≤ (s.coreOf e.core).nWrites → e.before c (s.coreOf c).acqView = true →
        e.seq ≤ ((s2.lock n).view.get e.core).writes := by
  obtain rfl := Host.Outcome.next.inj ((execSpinRel_fence hcur hp).symm.trans h1)
  have hp1 : ((setPhase c (.relClr n saved) (fenceRel c s)).coreOf c).frame.phase = .relClr n saved := by
    simp [setPhase_eq]
  obtain rfl := Host.Outcome.next.inj ((execSpinRel_clear (by exact hcur) hp1).symm.trans h2)
  refine ⟨⟨rfl, rfl, rfl, rfl⟩, by simp [setPhase_eq, lockClr], fun e hseq hbefore => ?_⟩
  simp only [setPhase_eq, lockClr, fenceRel, State.lock_setCore, State.lock_setLock, State.coreOf_setCore,
    View.get_join, Clock.writes_join, le_sup_iff]
  by_cases hc : e.core = c
  · subst hc
    exact .inl (.inr (.inr (.inr (by rwa [PerCore.get_set]))))
  · exact .inr (by simpa [WriteEv.before, hc] using hbefore)

/-- Test-and-set and fence of SPIN_ACQ of a free lock: the core's next accesses are ordered after all that the lock's clears
have published (R62, R64). -/
theorem acquire_sees {j : Nat} {s1 s2 : State} (hcur : s.cur = .core c)
    (hp : (s.coreOf c).frame.phase = .acqTas n saved) (hfree : (s.lock n).claimed = false)
    (h1 : exec (.spinAcq j) s = .next s1) (h2 : exec (.spinAcq j) s1 = .next s2) :
    SameStore s s2 ∧ ∀ c', ((s.lock n).view.get c').writes ≤ ((s2.coreOf c).acqView.get c').writes := by
  obtain rfl := Host.Outcome.next.inj ((execSpinAcq_claim hcur hp hfree).symm.trans h1)
  rw [lockTAS_free hfree] at h2
  have hp1 : ((setPhase c (.acqFence n saved) ((s.setLock n { s.lock n with claimed := true }).setCore c
      { s.coreOf c with pendView := (s.coreOf c).pendView.join (s.lock n).view })).coreOf c).frame.phase =
      .acqFence n saved := by
    simp [setPhase_eq]
  obtain rfl := Host.Outcome.next.inj ((execSpinAcq_fence (by exact hcur) hp1).symm.trans h2)
  refine ⟨⟨rfl, rfl, rfl, rfl⟩, fun c' => ?_⟩
  simp [setPhase_eq, fenceAcq]

end Handover

/-- Settles O19: what the clear publishes the acquire sees. -/
theorem releaseThenAcquireOrdersWrites : Obligations.ReleaseThenAcquireOrdersWrites := by
  intro a b n v w i j s s1 s2 s3 s4 hpa h1 h2 hpb h3 h4
  obtain ⟨hstore, hfree, hpub⟩ := release_publishes (s := s.setCur (.core a)) rfl hpa h1 h2
  obtain ⟨hstore', hsees⟩ := acquire_sees (s := s2.setCur (.core b)) rfl hpb hfree h3 h4
  obtain ⟨hparams, hmem, hwrites, hahead⟩ := hstore.of_setCur.trans hstore'.of_setCur
  have ordered : ∀ e : WriteEv, e.seq ≤ (s.coreOf e.core).nWrites → e.before a (s.coreOf a).acqView = true →
      e.before b (s4.coreOf b).acqView = true := fun e hseq hbefore =>
    WriteEv.before_of_le ((hpub e hseq hbefore).trans (hsees e.core))
  refine ⟨fun e he hseq hbefore => ⟨hwrites ▸ he, ordered e hseq hbefore⟩, fun x hi hin hone hann => ?_⟩
  have hof : s4.writesOf x = s.writesOf x := by rw [State.writesOf, hwrites]; rfl
  obtain ⟨_, _, hseq, horder, _, _⟩ := hi
  have horder' : s4.InOrder := by rwa [State.InOrder, hwrites]
  have hread := horder'.memRead_unraced (c := b) (a := x) (c' := a)
    (hparams ▸ hin) (hof ▸ hone) (hahead ▸ hann) fun e he => by
      rw [hof] at he
      exact ordered e (hseq e (mem_writesOf.1 he).1) (by simp [WriteEv.before, hone e he])
  rwa [hmem] at hread

end Sys2Proof.Machine
end

section
/-! SUPPORT. A core that issues a request, and the buffer bytes of WRITE and READ: obligations O29, O30, O41 and O44. -/

namespace Sys2Proof.Machine

open Sys2Proof.Config

/-! ## Issuing a request (R58, R66) -/

/-- Each of the five engine requests, run by a core, is the issuing of it. -/
theorem exec_engine_request {c : CoreId} {b : BusId} {i : Instr} {s : State} (hcur : s.cur = .core c)
    (hi : i = .configure b ∨ i = .setbaud b ∨ (∃ ns a, i = .write b ns a) ∨ (∃ ns a, i = .read b ns a) ∨
      ∃ a, i = .transfer b a) : ∃ load, exec i s = issueRequest c b load s := by
  obtain rfl | rfl | ⟨ns, a, rfl⟩ | ⟨ns, a, rfl⟩ | ⟨a, rfl⟩ := hi
  · exact ⟨loadConfigure, by simp only [exec, execConfigure, hcur]⟩
  · exact ⟨loadSetbaud, by simp only [exec, execSetbaud, hcur]⟩
  · exact ⟨loadWrite ns a, by simp only [exec, execWrite, hcur]⟩
  · exact ⟨loadRead ns a, by simp only [exec, execRead, hcur]⟩
  · exact ⟨loadTransfer a, by simp only [exec, execTransfer, hcur]⟩

/-- Settles O29: a request is its issuing, which an engine at work does not take. -/
theorem overlappingRequestsAreFatal : Obligations.OverlappingRequestsAreFatal := by
  rintro c b s ⟨hcur, hready⟩ hbusy i hi
  obtain ⟨load, hrun⟩ := exec_engine_request hcur hi
  rw [hrun, issueRequest_busy hready hbusy]

/-- Settles O30: a request is its issuing, which has no step while the core waits, and takes the result once it is there. -/
theorem aCoreWaitsForItsEngine : Obligations.ACoreWaitsForItsEngine := by
  intro c b s i hcur hi
  obtain ⟨load, hrun⟩ := exec_engine_request hcur hi
  refine ⟨fun hwait => hrun.trans (issueRequest_waits hwait), fun r idx hgot => ?_⟩
  refine ⟨_, hrun.trans (issueRequest_gotResult hgot), by simp [nextLine_eq],
    ⟨fun b' => ⟨rfl, rfl⟩, ⟨fun _ => rfl, rfl⟩, rfl, rfl, rfl, rfl⟩, ⟨fun _ => rfl, rfl⟩, fun c' hc => ?_⟩
  simp [nextLine_eq, State.coreOf_setCore_ne _ _ hc]

/-! ## The buffer bytes (R52, R56) -/

section Buffer

variable {b : BusId} {s : State}

theorem exec_read_eng {ns : Bool} {a : BitVec ADDR_WIDTH} (h : s.cur = .eng b) :
    exec (.read b ns a) s = readCallStep b s := by
  simp only [exec, execRead, h]

theorem nextByte_eq (b : BusId) (first : EngState) (s : State) :
    nextByte b first s = s.setEng b ((s.eng b).advanced first) := by
  rw [← nextByte_setEng, State.setEng_eng]

/-- READ with the byte `d` taken from the receive queue, which leaves `r` there. -/
def State.popped (b : BusId) (d : Byte) (r : List Byte) (s : State) : State :=
  (s.setCtl b { s.ctl b with rxq := r }).setEng b { s.eng b with state := .POP, sub := 1, byte := d }

@[simp] theorem State.eng_popped (d : Byte) (r : List Byte) :
    (s.popped b d r).eng b = { s.eng b with state := .POP, sub := 1, byte := d } := State.eng_setEng ..

/-- READ takes the oldest received byte (R52, R158). -/
theorem readCallStep_pop {d : Byte} {r : List Byte} (h : (s.eng b).state = .POP) (h0 : (s.eng b).sub = 0)
    (hq : (s.ctl b).rxq = d :: r) : readCallStep b s = .next (s.popped b d r) := by
  simp [readCallStep, popDataCmd, h, h0, hq, goto, State.popped]

/-- READ stores the byte it has taken, for its requester (R158). -/
theorem readCallStep_store {t : State} (h : (s.eng b).state = .POP) (h0 : (s.eng b).sub ≠ 0)
    (hw : memWrite (s.eng b).requester ((s.eng b).operands.rbuf + (s.eng b).k) (s.eng b).byte s = some t) :
    readCallStep b s = .next (nextByte b .WAIT_SPACE t) := by
  simp [readCallStep, h, hw]

end Buffer

/-- Settles O44: outside the launch memory there is no access, and without it no step. -/
theorem noStepOutsideTheLaunchMemory : Obligations.NoStepOutsideTheLaunchMemory := by
  intro b ns a s hcur
  refine ⟨fun hst hsub hout => ?_, fun hst hsub hout => ?_⟩
  · rw [exec_write_eng hcur]
    simp only [writeCallStep, hst, hsub, memRead_out hout, noStep]
  · rw [exec_read_eng hcur]
    simp [readCallStep, hst, memWrite_out hout, noStep]

/-- Settles O41: the byte is popped, then written for the requester, and the engine goes on. -/
theorem readStoresTheReceivedByte : Obligations.ReadStoresTheReceivedByte := by
  rintro b ns a s d rest ⟨hcur, hst, hsub⟩ hq hm hin
  intro e
  have hpop : exec (.read b ns a) s = .next (s.popped b d rest) :=
    (exec_read_eng hcur).trans (readCallStep_pop hst hsub hq)
  have hw := memWrite_in (c := e.requester) (a := e.operands.rbuf + e.k) (v := d) (s := s.popped b d rest) hin
  have hstore : exec (.read b ns a) (s.popped b d rest) = _ := (exec_read_eng (by exact hcur)).trans
    (readCallStep_store (by rw [State.eng_popped]) (by rw [State.eng_popped]; exact one_ne_zero)
      (by rw [State.eng_popped]; exact hw))
  refine ⟨_, (execTimes_succ hpop).trans (execTimes_succ hstore), ?_⟩
  rw [nextByte_eq, (memWrite_same hw).eng b, State.eng_popped, State.popped]
  refine ⟨by simp, by simpa using Memory.read_write hm _ d, fun x hx => by simpa using Memory.read_write_ne _ d hx,
    fun hnext => ?next, fun hend => ?finish, by simp, fun b' hb => ?bus, ⟨fun _ => by simp, by simp⟩,
    fun c' hc => ?core, by simp, by simp⟩
  case next => rw [State.eng_setEng]; exact if_pos hnext
  case finish => rw [State.eng_setEng]; exact if_neg hend
  case bus => constructor <;> simp [State.eng_setEng_ne _ _ hb, State.ctl_setCtl_ne _ _ hb]
  case core => simp [State.coreOf_setCore_ne _ _ hc]

end Sys2Proof.Machine
end

section
/-! SUPPORT. The words of the three formats by their fields (R70 to R72), each row of the ERQ table by the fields it asks for
(R76), and obligations O1 to O4. -/

namespace Sys2Proof

/-! ## An ERQ word by its fields (R70) -/

/-- A bit of a field is a bit of the word. -/
theorem getLsbD_eq_of_field_eq {w n s j : Nat} {q p : BitVec w} (h : q.extractLsb' s n = p.extractLsb' s n) (hs : s ≤ j)
    (hj : j < s + n) : q.getLsbD j = p.getLsbD j := by
  have hbit := congrArg (·.getLsbD (j - s)) h
  have hin : j - s < n := by omega
  simpa [BitVec.getLsbD_extractLsb', hin, Nat.add_sub_cancel' hs] using hbit

theorem erqBI_eq_iff {q p : Word} : erqBI q = erqBI p ↔ q.getLsbD 5 = p.getLsbD 5 := by
  unfold erqBI
  cases q.getLsbD 5 <;> cases p.getLsbD 5 <;> decide

/-- The six fields of an ERQ word are all of it. -/
theorem erq_ext_iff {q p : Word} : q = p ↔
    q.extractLsb' 16 16 = p.extractLsb' 16 16 ∧ q.extractLsb' 6 2 = p.extractLsb' 6 2 ∧ erqOP q = erqOP p ∧
      erqNS q = erqNS p ∧ erqBI q = erqBI p ∧ erqA8 q = erqA8 p := by
  refine ⟨fun h => by simp [h], fun ⟨hhigh, hmid, hop, hns, hbi, ha8⟩ => BitVec.eq_of_getLsbD_eq fun j hj => ?_⟩
  obtain h | rfl | rfl | h | h | h : j < 4 ∨ j = 4 ∨ j = 5 ∨ (6 ≤ j ∧ j < 8) ∨ (8 ≤ j ∧ j < 16) ∨ 16 ≤ j := by omega
  · exact getLsbD_eq_of_field_eq hop (Nat.zero_le j) (by omega)
  · exact hns
  · exact erqBI_eq_iff.1 hbi
  · exact getLsbD_eq_of_field_eq hmid h.1 h.2
  · exact getLsbD_eq_of_field_eq ha8 h.1 h.2
  · exact getLsbD_eq_of_field_eq hhigh h hj

section Fields

variable (op : BitVec 4) (ns : Bool) (bi : BusId) (a8 : BitVec ADDR_WIDTH)

@[simp] theorem erqOP_erqWord : erqOP (erqWord op ns bi.bit a8) = op := BitVec.extractLsb'_append_eq_right

@[simp] theorem erqNS_erqWord : erqNS (erqWord op ns bi.bit a8) = ns := by
  simp only [erqNS, erqWord, BitVec.getLsbD_append]
  simp

@[simp] theorem erqBI_erqWord : erqBI (erqWord op ns bi.bit a8) = bi := by
  simp only [erqBI, erqWord, BitVec.getLsbD_append]
  cases bi <;> simp [BusId.bit, BusId.number]

@[simp] theorem erqA8_erqWord : erqA8 (erqWord op ns bi.bit a8) = a8 := by
  simp [erqA8, erqWord, BitVec.extractLsb'_append_eq_of_le, BitVec.extractLsb'_append_eq_right]

@[simp] theorem erqWord_mid : (erqWord op ns bi.bit a8).extractLsb' 6 2 = 0 := by
  simp [erqWord, BitVec.extractLsb'_append_eq_of_le, BitVec.extractLsb'_append_eq_right]

@[simp] theorem erqWord_high : (erqWord op ns bi.bit a8).extractLsb' 16 16 = 0 := by
  simp [erqWord, BitVec.extractLsb'_append_eq_of_le]

end Fields

theorem erqWord_of_fields {q : Word} (hhigh : q.extractLsb' 16 16 = 0) (hmid : q.extractLsb' 6 2 = 0) :
    erqWord (erqOP q) (erqNS q) (erqBI q).bit (erqA8 q) = q :=
  erq_ext_iff.2 ⟨by simp [hhigh], by simp [hmid], by simp, by simp, by simp, by simp⟩

/-! ## The rows of the ERQ table (R76) -/

theorem erqBI_and (q m : Word) : erqBI (q &&& m) = if m.getLsbD 5 then erqBI q else .i2c0 := by
  unfold erqBI
  rw [BitVec.getLsbD_and]
  cases q.getLsbD 5 <;> cases m.getLsbD 5 <;> rfl

/-- A row of the table, which is a mask and a pattern, by the fields. -/
theorem and_eq_iff {q m p : Word} : q &&& m = p ↔
    q.extractLsb' 16 16 &&& m.extractLsb' 16 16 = p.extractLsb' 16 16 ∧
      q.extractLsb' 6 2 &&& m.extractLsb' 6 2 = p.extractLsb' 6 2 ∧ erqOP q &&& erqOP m = erqOP p ∧
      (erqNS q && erqNS m) = erqNS p ∧ (if m.getLsbD 5 then erqBI q else .i2c0) = erqBI p ∧
      erqA8 q &&& erqA8 m = erqA8 p := by
  rw [erq_ext_iff, erqBI_and]
  simp only [erqA8, erqNS, erqOP, BitVec.extractLsb'_and, BitVec.getLsbD_and]

/-- A field its row's mask covers whole. -/
theorem and_fullMask : (∀ x : BitVec 16, x &&& 0xFFFF#16 = x) ∧ (∀ x : BitVec 8, x &&& 0xFF#8 = x) ∧
    (∀ x : BitVec 2, x &&& 0x3#2 = x) ∧ ∀ x : BitVec 4, x &&& 0xF#4 = x :=
  ⟨fun _ => BitVec.and_allOnes, fun _ => BitVec.and_allOnes, fun _ => BitVec.and_allOnes, fun _ => BitVec.and_allOnes⟩

/-- R70: bits [31:16] and [7:6], zero in every legal word. -/
def ReservedZero (q : Word) : Prop := q.extractLsb' 16 16 = 0 ∧ q.extractLsb' 6 2 = 0

/-- The words of each row: the must-be-zero fields are zero, and `OP` is the row's. -/
theorem erqRow_iff (q : Word) :
    (rowConfigure.hits q = true ↔ ReservedZero q ∧ erqOP q = 1 ∧ erqNS q = false ∧ erqA8 q = 0) ∧
    (rowSetbaud.hits q = true ↔ ReservedZero q ∧ erqOP q = 2 ∧ erqNS q = false ∧ erqA8 q = 0) ∧
    (rowWrite.hits q = true ↔ ReservedZero q ∧ erqOP q = 3) ∧
    (rowRead.hits q = true ↔ ReservedZero q ∧ erqOP q = 4) ∧
    (rowTransfer.hits q = true ↔ ReservedZero q ∧ erqOP q = 5 ∧ erqNS q = false) ∧
    (rowSpinAcq.hits q = true ↔ ReservedZero q ∧ erqOP q = 6 ∧ erqNS q = false ∧ erqBI q = .i2c0) ∧
    (rowSpinRel.hits q = true ↔ ReservedZero q ∧ erqOP q = 7 ∧ erqNS q = false ∧ erqBI q = .i2c0) := by
  simp [OpRow.hits, and_eq_iff, and_fullMask, and_assoc, rowConfigure, rowSetbaud, rowWrite, rowRead, rowTransfer,
    rowSpinAcq, rowSpinRel, ReservedZero, erqOP, erqNS, erqBI, erqA8]

/-! ## The ERQ decoder (R76, R77) -/

theorem reservedZero_erqWord (op : BitVec 4) (ns : Bool) (bi : BusId) (a8 : BitVec ADDR_WIDTH) :
    ReservedZero (erqWord op ns bi.bit a8) := ⟨erqWord_high .., erqWord_mid ..⟩

/-- The decoder by the fields of the word. -/
theorem decodeErq_erqWord (op : BitVec 4) (ns : Bool) (bi : BusId) (a8 : BitVec ADDR_WIDTH) :
    decodeErq (erqWord op ns bi.bit a8) =
      if op = 1 ∧ ns = false ∧ a8 = 0 then .ok (.configure bi)
      else if op = 2 ∧ ns = false ∧ a8 = 0 then .ok (.setbaud bi)
      else if op = 3 then .ok (.write bi ns a8)
      else if op = 4 then .ok (.read bi ns a8)
      else if op = 5 ∧ ns = false then .ok (.transfer bi a8)
      else if op = 6 ∧ ns = false ∧ bi = .i2c0 then .ok (.spinAcq a8.toNat)
      else if op = 7 ∧ ns = false ∧ bi = .i2c0 then .ok (.spinRel a8.toNat)
      else if op = 0 ∨ 8 ≤ op.toNat then .error .reservedOp
      else .error .mustBeZero := by
  simp [decodeErq, erqRow_iff, reservedZero_erqWord]

/-- A word with a reserved bit set is refused. -/
theorem decodeErq_ne_ok {q : Word} (h : ¬ ReservedZero q) (i : Instr) : decodeErq q ≠ .ok i := by
  simp only [decodeErq, erqRow_iff, h, false_and, if_false]
  split <;> nofun

/-- A word without a bus number has the first bus's there. -/
theorem BusId.bit_i2c0 : BusId.bit .i2c0 = 0 := rfl

theorem decodeErq_encode {i : Instr} (hp : i.port = .request) (hi : i.wf = true) : decodeErq (encode i) = .ok i := by
  have id_toNat {id : Nat} (h : decide (id < 256) = true) : (BitVec.ofNat ADDR_WIDTH id).toNat = id :=
    Nat.mod_eq_of_lt (of_decide_eq_true h)
  cases i with
  | configure | setbaud | write | read | transfer => simp [encode, decodeErq_erqWord]
  | spinAcq id => simpa [encode, BusId.bit_i2c0, id_toNat hi] using decodeErq_erqWord 6 false .i2c0 (BitVec.ofNat 8 id)
  | spinRel id => simpa [encode, BusId.bit_i2c0, id_toNat hi] using decodeErq_erqWord 7 false .i2c0 (BitVec.ofNat 8 id)
  | cmdWrite | cmdRead | lockTas | lockClr => cases hp

theorem encode_of_decodeErq {q : Word} {i : Instr} (h : decodeErq q = .ok i) : encode i = q ∧ i.wf = true := by
  have hzero : ReservedZero q := by_contra fun hz => decodeErq_ne_ok hz i h
  rw [← erqWord_of_fields hzero.1 hzero.2] at h ⊢
  generalize erqOP q = op, erqNS q = ns, erqBI q = bi, erqA8 q = a8 at h ⊢
  rw [decodeErq_erqWord] at h
  split_ifs at h with hconfigure hsetbaud hwrite hread htransfer hacq hrel
  · obtain ⟨rfl, rfl, rfl⟩ := hconfigure; cases h; exact ⟨rfl, rfl⟩
  · obtain ⟨rfl, rfl, rfl⟩ := hsetbaud; cases h; exact ⟨rfl, rfl⟩
  · subst hwrite; cases h; exact ⟨rfl, rfl⟩
  · subst hread; cases h; exact ⟨rfl, rfl⟩
  · obtain ⟨rfl, rfl⟩ := htransfer; cases h; exact ⟨rfl, rfl⟩
  · obtain ⟨rfl, rfl, rfl⟩ := hacq; cases h
    exact ⟨by simp [encode, BusId.bit_i2c0], decide_eq_true a8.isLt⟩
  · obtain ⟨rfl, rfl, rfl⟩ := hrel; cases h
    exact ⟨by simp [encode, BusId.bit_i2c0], decide_eq_true a8.isLt⟩

/-! ## Command words and bank accesses (R71, R72) -/

/-- R71: a command word is its fields. -/
theorem cmdw_of_fields (w : CmdWord) : cmdw (w.getLsbD 10) (w.getLsbD 9) (w.getLsbD 8) (w.extractLsb' 0 8) = w := by
  refine BitVec.eq_of_getLsbD_eq fun j hj => ?_
  simp only [cmdw, BitVec.getLsbD_append, BitVec.getLsbD_extractLsb', BitVec.getLsbD_ofBool]
  interval_cases j <;> simp

theorem decodeCmdw_cmdw (restart stop cmd : Bool) (dat : Byte) :
    decodeCmdw (cmdw restart stop cmd dat) = if cmd then .cmdRead dat stop restart else .cmdWrite dat stop restart := by
  obtain ⟨hdat, hcmd, hstop, hrestart⟩ := Machine.cmdw_fields restart stop cmd dat
  rw [decodeCmdw, hdat, hcmd, hstop, hrestart]

theorem encode_decodeCmdw (w : CmdWord) : encode (decodeCmdw w) = w.setWidth 32 := by
  rw [← cmdw_of_fields w, decodeCmdw_cmdw]
  cases w.getLsbD 8 <;> rfl

/-- R72: a bank access is its fields. -/
theorem lkaWord_of_fields : ∀ w : LkaWord, lkaWord (w.getLsbD 5) (lkaN w) = w := by decide

theorem decodeLka_lkaWord : ∀ (w : Bool) (n : LockId),
    decodeLka (lkaWord w n) = if w then .lockClr n else .lockTas n := by decide

theorem encode_decodeLka (w : LkaWord) : encode (decodeLka w) = w.setWidth 32 := by
  rw [← lkaWord_of_fields w, decodeLka_lkaWord]
  cases w.getLsbD 5 <;> rfl

theorem decodeLka_port (w : LkaWord) : (decodeLka w).port = .lockBank := by
  unfold decodeLka
  split <;> rfl

/-! ## The decoder and the encoder (R70 to R76, R79, R80) -/

/-- Settles O1, by the port the instruction's word arrives on. -/
theorem decodeOfEncodeIsTheInstruction : Obligations.DecodeOfEncodeIsTheInstruction := by
  intro i hi
  cases hp : i.port with
  | request => exact decodeErq_encode hp hi
  | dataCmd =>
    cases i with
    | cmdWrite dat stop restart =>
      exact (decode_dataCmd_setWidth _).trans (congrArg _ (decodeCmdw_cmdw restart stop false dat))
    | cmdRead dat stop restart =>
      exact (decode_dataCmd_setWidth _).trans (congrArg _ (decodeCmdw_cmdw restart stop true dat))
    | _ => cases hp
  | lockBank =>
    cases i with
    | lockTas n => exact (decode_lockBank_setWidth _).trans (congrArg _ (decodeLka_lkaWord false n))
    | lockClr n => exact (decode_lockBank_setWidth _).trans (congrArg _ (decodeLka_lkaWord true n))
    | _ => cases hp

/-- Settles O2, by the port the word arrives on. -/
theorem encodeOfDecodeIsTheWord : Obligations.EncodeOfDecodeIsTheWord := by
  refine ⟨fun q i h => ?request, fun w => ⟨encode_decodeCmdw w, Machine.decodeCmdw_port w⟩,
    fun w => ⟨encode_decodeLka w, decodeLka_port w⟩⟩
  case request =>
    obtain ⟨henc, hwf⟩ := encode_of_decodeErq h
    exact ⟨henc, hwf, Machine.decodeErq_request h⟩

/-- Settles O4: each word is evaluated. -/
theorem workedEncodingsDecode : Obligations.WorkedEncodingsDecode := by
  unfold Obligations.WorkedEncodingsDecode
  decide

/-! ## Illegal requests (R77) -/

/-- The rows of the request port. -/
theorem forall_erqRow {P : OpRow → Prop} : (∀ r ∈ opRows, r.port = .request → P r) ↔
    P rowConfigure ∧ P rowSetbaud ∧ P rowWrite ∧ P rowRead ∧ P rowTransfer ∧ P rowSpinAcq ∧ P rowSpinRel := by
  simp [opRows, rowConfigure, rowSetbaud, rowWrite, rowRead, rowTransfer, rowSpinAcq, rowSpinRel,
    rowCmdWrite, rowCmdRead, rowLockTas, rowLockClr]

/-- R77 by the fields the decoder reads. -/
theorem illegalErq_fields (q : Word) : Machine.IllegalErq q ↔ ¬ ReservedZero q ∨
    erqOP q = 0 ∨ 8 ≤ (erqOP q).toNat ∨ (erqNS q = true ∧ erqOP q ≠ 3 ∧ erqOP q ≠ 4) ∨
      (erqBI q = .i2c1 ∧ (erqOP q = 6 ∨ erqOP q = 7)) ∨ (erqA8 q ≠ 0 ∧ (erqOP q = 1 ∨ erqOP q = 2)) := by
  have hbi : erqBI q = .i2c1 ↔ q.getLsbD 5 = true := by unfold erqBI; split <;> simp_all
  rw [hbi]
  unfold Machine.IllegalErq ReservedZero erqOP erqNS erqA8
  grind

/-- R77: the illegal words are those no row of R76 takes. -/
theorem illegalErq_iff (q : Word) : Machine.IllegalErq q ↔ ∀ r ∈ opRows, r.port = .request → r.hits q = false := by
  simp only [forall_erqRow, ← Bool.not_eq_true, erqRow_iff, illegalErq_fields]
  by_cases hz : ReservedZero q
  · simp only [hz, not_true, true_and, false_or]
    -- of `A8` only whether it is zero counts, and the other fields have few values
    generalize erqOP q = op, erqNS q = ns, erqBI q = bi
    cases bi <;> by_cases ha8 : erqA8 q = 0
    all_goals
      simp only [ha8, ne_eq]
      revert op ns
      decide
  · simp [hz]

theorem decodeErq_error_iff (q : Word) :
    (∃ e, decodeErq q = .error e) ↔ ∀ r ∈ opRows, r.port = .request → r.hits q = false := by
  rw [forall_erqRow]
  unfold decodeErq
  split_ifs <;> simp_all

theorem illegalErq_iff_error (q : Word) : Machine.IllegalErq q ↔ ∃ e, decodeErq q = .error e :=
  (illegalErq_iff q).trans (decodeErq_error_iff q).symm

/-- R77: a running core at an illegal request. -/
theorem coreStep_of_illegal {c : CoreId} {q : Word} {o : Operands} {e : DecodeError} {s : Machine.State}
    (hrun : (s.coreOf c).halted = false) (hline : (s.coreOf c).line = some (.req q o)) (hdec : decodeErq q = .error e) :
    Machine.coreStep c s = .fault (.IllegalRequest (.core c) q) := by
  simp [Machine.coreStep, hrun, hline, hdec, Machine.fatal]

/-- Settles O3: the decoder refuses the words no row takes, and the core asks the decoder before anything else. -/
theorem illegalRequestIsFatal : Obligations.IllegalRequestIsFatal := by
  refine ⟨fun q => ?rows, fun c s q o hrun hline => ⟨fun hill => ?illegal, fun hlegal => ?legal⟩⟩
  case rows => simpa [OpRow.hits] using illegalErq_iff q
  case illegal =>
    obtain ⟨e, he⟩ := (illegalErq_iff_error q).1 hill
    exact coreStep_of_illegal hrun hline he
  case legal =>
    rw [illegalErq_iff_error] at hlegal
    cases hdec : decodeErq q with
    | error e => exact absurd ⟨e, hdec⟩ hlegal
    | ok i => exact ⟨i, rfl, Machine.coreStep_of_request hrun hline hdec⟩

end Sys2Proof
end

section
/-! SUPPORT. Every step has its outcome, and the engine's pushes to the transmit queue: obligations O6, O33 and O39. -/

namespace Sys2Proof.Machine

open Sys2Proof.Config

/-- Settles O6: the inversion of a step has a next state or a fatal, and no third case. -/
theorem noStepIsRefused : Obligations.NoStepIsRefused := by
  intro s r h
  have hmoves := step_moves s
  rw [h] at hmoves
  exact hmoves

/-! ## A command word queued by the engine (R74, R144) -/

section Queue

variable {b : BusId} {s : State} {ron : Bool}

theorem execTimes_two {i : Instr} {t u : State} (h : exec i s = .next t) (g : exec i t = .next u) :
    execTimes i 2 s = .next u := (execTimes_succ h).trans (execTimes_succ g)

/-- ISSUE with room in the queue and `RON` written: one word is queued, with its framing bits. -/
theorem issueWord_room (cmd : Bool) (dat : Byte) (wait : EngState) (hron : (s.eng b).ron = some ron)
    (hroom : (s.ctl b).txq.length < s.params.TXQ_DEPTH) :
    ∃ t w, issueWord b cmd dat wait s = .next t ∧ t.ctl b = { s.ctl b with txq := (s.ctl b).txq ++ [w] } ∧
      w.extractLsb' 0 8 = dat ∧ w.getLsbD 8 = cmd ∧
      w.getLsbD 9 = (decide ((s.eng b).k + 1 = (s.eng b).len) && !(s.eng b).ns) ∧
      w.getLsbD 10 = (decide ((s.eng b).k = 0) && ron) ∧ MovedTo b wait 0 s t ∧ OnlyBus b s t ∧ SameCores s t := by
  let w := cmdwOf (s.eng b).k (s.eng b).len ron (s.eng b).ns cmd dat
  obtain ⟨hdat, hcmd, hstop, hrestart⟩ : _ ∧ w.getLsbD 8 = _ ∧ w.getLsbD 9 = _ ∧ w.getLsbD 10 = _ := cmdw_fields ..
  refine ⟨goto b wait 0 (s.setCtl b { s.ctl b with txq := (s.ctl b).txq ++ [w] }), w, ?_, by simp [goto_eq], hdat, hcmd,
    hstop, hrestart, by simp [MovedTo, goto_eq], ((OnlyBus.refl b s).setCtl _).setEng _, fun _ => rfl⟩
  simp [issueWord, hron, pushDataCmd, hroom, w]

/-! ## WRITE's byte (R146) -/

theorem writeCallStep_fetch {d : Byte} {s1 : State} (h : (s.eng b).state = .ISSUE) (h0 : (s.eng b).sub = 0)
    (hr : memRead (s.eng b).requester ((s.eng b).operands.wbuf + (s.eng b).k) s = some (d, s1)) :
    writeCallStep b s = .next (s1.setEng b { s1.eng b with state := .ISSUE, sub := 1, byte := d }) := by
  simp [writeCallStep, h, h0, hr, goto_setEng]

theorem writeCallStep_issue (h : (s.eng b).state = .ISSUE) (h0 : (s.eng b).sub ≠ 0) :
    writeCallStep b s = issueWord b false (s.eng b).byte .WAIT_TX_EMPTY s := by
  simp [writeCallStep, h]

/-! ## READ's command (R156, R158) -/

theorem readCallStep_space (h : (s.eng b).state = .WAIT_SPACE) (hroom : (s.ctl b).txq.length < s.params.TXQ_DEPTH) :
    readCallStep b s = .next (goto b .ISSUE 0 s) := by
  have hspace : 0 < writeSpace s.params (s.ctl b) := Nat.sub_pos_of_lt hroom
  simp [readCallStep, h, hspace]

theorem readCallStep_issue (h : (s.eng b).state = .ISSUE) : readCallStep b s = issueWord b true 0 .WAIT_RX s := by
  simp [readCallStep, h]

end Queue

/-- Settles O33: the read leaves the bus as it is, then the byte's word is queued. -/
theorem writeQueuesItsByte : Obligations.WriteQueuesItsByte := by
  rintro b ns a s d s1 ron ⟨hcur, hst, hsub⟩ hron hread hroom
  have hfetch := (exec_write_eng (ns := ns) (a := a) hcur).trans (writeCallStep_fetch hst hsub hread)
  obtain ⟨o, l, rfl⟩ := memRead_state hread
  let u := ((s.setOracle o).setAhead l).setEng b { s.eng b with state := .ISSUE, sub := 1, byte := d }
  have heng : u.eng b = { s.eng b with state := .ISSUE, sub := 1, byte := d } := State.eng_setEng ..
  have hctl : u.ctl b = s.ctl b := State.ctl_setEng ..
  have honly : OnlyBus b s u := ((OnlyBus.refl b s).setOracle o).setEng _
  have hissue : exec (.write b ns a) u = issueWord b false d .WAIT_TX_EMPTY u := by
    rw [exec_write_eng (by exact hcur), writeCallStep_issue (by rw [heng]) (by rw [heng]; exact one_ne_zero), heng]
  obtain ⟨t, w, hrun, hqueue, hdat, hcmd, hstop, hrestart, hmoved, honly', hcores⟩ :=
    issueWord_room (s := u) (ron := ron) false d .WAIT_TX_EMPTY (by rw [heng]; exact hron) (by rw [hctl]; exact hroom)
  rw [heng] at hstop hrestart
  exact ⟨t, w, execTimes_two hfetch (hissue.trans hrun), hctl ▸ hqueue, hdat, hcmd, hstop, hrestart,
    hmoved.trans (by rw [heng]), honly.trans honly', hcores⟩

/-- Settles O39: the room is seen, then the command of the byte is queued. -/
theorem readQueuesItsCommand : Obligations.ReadQueuesItsCommand := by
  rintro b ns a sub s ron ⟨hcur, hst, _⟩ hron hroom
  have hspace := (exec_read_eng (ns := ns) (a := a) hcur).trans (readCallStep_space hst hroom)
  obtain ⟨heng, hctl, honly, hcores⟩ := goto_frame b .ISSUE 0 s
  generalize goto b .ISSUE 0 s = u at hspace heng hctl honly hcores
  obtain ⟨_, _, _, hparams, hcur'⟩ := id honly
  have hissue : exec (.read b ns a) u = issueWord b true 0 .WAIT_RX u := by
    rw [exec_read_eng (hcur'.trans hcur), readCallStep_issue (by rw [heng])]
  obtain ⟨t, w, hrun, hqueue, hdat, hcmd, hstop, hrestart, hmoved, honly', hcores'⟩ :=
    issueWord_room (s := u) (ron := ron) true 0 .WAIT_RX (by rw [heng]; exact hron) (by rw [hctl, hparams]; exact hroom)
  rw [heng] at hstop hrestart
  exact ⟨t, w, execTimes_two hspace (hissue.trans hrun), hctl ▸ hqueue, hdat, hcmd, hstop, hrestart,
    hmoved.trans (by rw [heng]), honly.trans honly', fun c => (hcores' c).trans (hcores c)⟩

end Sys2Proof.Machine
end

section
/-! SUPPORT. The controller's four steps and the block reset, run to their end: obligations O27, O47 to O51, O58 and O60. -/

namespace Sys2Proof.Machine

open Sys2Proof.Config

/-! ## The block reset (R106) -/

theorem exec_configure_eng {b : BusId} {s : State} (h : s.cur = .eng b) : exec (.configure b) s = configureStep b s := by
  simp only [exec, execConfigure, h]

theorem configureStep_blockReset {b : BusId} {s : State} (h : (s.eng b).state = .RESET_BLOCK) (h0 : (s.eng b).sub = 0) :
    configureStep b s = .next (goto b .RESET_BLOCK 1 (blockReset b s)) := by
  simp only [configureStep, h, h0]

/-- Settles O27: the controller becomes `Ctl.reset` but for its trace, and the engine moves on. -/
theorem blockResetClearsTheController : Obligations.BlockResetClearsTheController := by
  rintro b s ⟨hcur, hst, hsub⟩
  have hctl : (goto b .RESET_BLOCK 1 (blockReset b s)).ctl b = { Ctl.reset with trace := (s.ctl b).trace } := by
    simp [goto_eq, blockReset]
  refine ⟨_, (exec_configure_eng hcur).trans (configureStep_blockReset hst hsub), ?_⟩
  rw [hctl]
  exact ⟨rfl, rfl, rfl, rfl, rfl, rfl, rfl, rfl, rfl, rfl, rfl, rfl, rfl, rfl, rfl, rfl, rfl, rfl,
    by simp [MovedTo, goto_eq, blockReset], ((OnlyBus.refl b s).setCtl _).setEng _, fun _ => rfl⟩

/-! ## What a step of the controller leaves -/

section Frame

variable {b : BusId} {s : State}

/-- A new controller and other inputs are all that changes. -/
theorem setCtl_frame (b : BusId) (y : Ctl) (o : Oracle) (s : State) :
    ((s.setCtl b y).setOracle o).eng b = s.eng b ∧ OnlyBus b s ((s.setCtl b y).setOracle o) ∧
      SameCores s ((s.setCtl b y).setOracle o) :=
  ⟨State.eng_setCtl .., ((OnlyBus.refl b s).setCtl y).setOracle o, fun _ => rfl⟩

/-- The controller of `b` has become `y`, in a step of its own: everything else is as before, the inputs and the agent apart. -/
structure CtlBecomes (b : BusId) (s : State) (y : Ctl) (t : State) : Prop where
  ctl : t.ctl b = y
  eng : t.eng b = s.eng b
  other : SameOtherBus b s t
  locks : SameLocks s t
  memory : SameMemory s t
  cores : SameCores s t

theorem CtlBecomes.setCtl (b : BusId) (s : State) (ag : Agent) (y : Ctl) : CtlBecomes b s y ((s.setCur ag).setCtl b y) :=
  ⟨State.ctl_setCtl .., State.eng_setCtl .., fun _ hb => ⟨State.eng_setCtl .., State.ctl_setCtl_ne _ _ hb⟩,
    ⟨fun _ => rfl, rfl⟩, ⟨fun _ => rfl, rfl⟩, fun _ => rfl⟩

/-- A pick that passes (log 3). -/
theorem CtlBecomes.passes (b : BusId) (s : State) (ag : Agent) : CtlBecomes b s (s.ctl b) (s.setCur ag) :=
  ⟨rfl, rfl, fun _ _ => ⟨rfl, rfl⟩, ⟨fun _ => rfl, rfl⟩, ⟨fun _ => rfl, rfl⟩, fun _ => rfl⟩

/-- The inputs are no part of it. -/
theorem CtlBecomes.setOracle {y : Ctl} {t : State} (h : CtlBecomes b s y t) (o : Oracle) :
    CtlBecomes b s y (t.setOracle o) :=
  ⟨h.ctl, h.eng, h.other, h.locks, h.memory, h.cores⟩

end Frame

/-! ## LOAD and STOP (R92, R100) -/

section LoadStop

variable {b : BusId} {s : State}

theorem ctlLoad_enabled {w : CmdWord} {r : List CmdWord} (hrun : (s.ctl b).Runs) (hin : (s.ctl b).inflight = none)
    (hstop : (s.ctl b).pendingStop = false) (hq : (s.ctl b).txq = w :: r) :
    ctlLoad b s = .next (s.setCtl b { s.ctl b with txq := r, inflight := some w }) := by
  unfold ctlLoad
  dsimp only
  rw [if_pos ⟨(Ctl.canRun_iff _).2 hrun, hin, hstop⟩, hq]

theorem ctlLoad_disabled (h : ¬ ((s.ctl b).Runs ∧ (s.ctl b).inflight = none ∧ (s.ctl b).pendingStop = false ∧
    (s.ctl b).txq ≠ [])) : ctlLoad b s = .next s := by
  unfold ctlLoad
  dsimp only
  split
  next henabled =>
    obtain ⟨hrun, hin, hstop⟩ := henabled
    have hempty : (s.ctl b).txq = [] := by
      by_contra hq
      exact h ⟨(Ctl.canRun_iff _).1 hrun, hin, hstop, hq⟩
    rw [hempty, noStep]
  next => rfl

theorem ctlStop_pending (h : (s.ctl b).pendingStop = true) :
    ctlStop b s = .next (s.setCtl b { s.ctl b with
      trace := (s.ctl b).trace ++ [.STOP], busOpen := false, pendingStop := false, stopDet := true }) := by
  simp only [ctlStop, h, if_true]

theorem ctlStop_none_pending (h : (s.ctl b).pendingStop = false) : ctlStop b s = .next s := by
  simp only [ctlStop, h, Bool.false_eq_true, if_false, noStep]

/-- A pick of LOAD, enabled or not. -/
theorem exists_ctlLoad (b : BusId) (s : State) :
    ∃ t y, runPick (.load b) s = .next t ∧ CtlBecomes b s y t ∧
      (∀ w r, (s.ctl b).Runs → (s.ctl b).inflight = none → (s.ctl b).pendingStop = false → (s.ctl b).txq = w :: r →
        y = { s.ctl b with txq := r, inflight := some w }) ∧
      (¬ ((s.ctl b).Runs ∧ (s.ctl b).inflight = none ∧ (s.ctl b).pendingStop = false ∧ (s.ctl b).txq ≠ []) →
        y = s.ctl b) := by
  by_cases henabled : (s.ctl b).Runs ∧ (s.ctl b).inflight = none ∧ (s.ctl b).pendingStop = false ∧ (s.ctl b).txq ≠ []
  · obtain ⟨hrun, hin, hstop, hne⟩ := henabled
    obtain ⟨w, r, hq⟩ := List.exists_cons_of_ne_nil hne
    refine ⟨_, _, ctlLoad_enabled (s := s.setCur (.ctl b)) hrun hin hstop hq, .setCtl .., fun w' r' _ _ _ hq' => ?_,
      fun h => absurd ⟨hrun, hin, hstop, hne⟩ h⟩
    obtain ⟨rfl, rfl⟩ := List.cons.inj (hq.symm.trans hq')
    rfl
  · refine ⟨_, _, ctlLoad_disabled (s := s.setCur (.ctl b)) henabled, .passes .., fun w r h1 h2 h3 hq => ?_, fun _ => rfl⟩
    exact absurd ⟨h1, h2, h3, by simp [hq]⟩ henabled

end LoadStop

/-- Settles O50, each step by whether it is enabled. -/
theorem loadAndStopOfTheController : Obligations.LoadAndStopOfTheController := by
  refine ⟨fun b s => ?load, fun b s => ?stop⟩
  case load =>
    obtain ⟨t, y, hrun, ⟨hctl, heng, hother, hlocks, hmem, hcores⟩, hyes, hno⟩ := exists_ctlLoad b s
    refine ⟨t, hrun, heng, hother, hlocks, hmem, hcores, fun w r h1 h2 h3 hq => ?_, fun h => hctl.trans (hno h)⟩
    rw [hctl, hyes w r h1 h2 h3 hq]
    exact ⟨rfl, fun hctrl => by simp [Ctl.txEmpty, hctrl]⟩
  case stop =>
    cases h : (s.ctl b).pendingStop with
    | true =>
      obtain ⟨hctl, heng, hother, hlocks, hmem, hcores⟩ := CtlBecomes.setCtl b s (.ctl b) { s.ctl b with
        trace := (s.ctl b).trace ++ [.STOP], busOpen := false, pendingStop := false, stopDet := true }
      exact ⟨_, ctlStop_pending (s := s.setCur (.ctl b)) h, heng, hother, hlocks, hmem, hcores, fun _ => hctl,
        fun h' => nomatch h.symm.trans h'⟩
    | false =>
      obtain ⟨hctl, heng, hother, hlocks, hmem, hcores⟩ := CtlBecomes.passes b s (.ctl b)
      exact ⟨_, ctlStop_none_pending (s := s.setCur (.ctl b)) h, heng, hother, hlocks, hmem, hcores,
        fun h' => (nomatch h.symm.trans h'), fun _ => hctl⟩

/-! ## OTHER_ABORT (R102) -/

section OtherAbort

variable {b : BusId} {s : State}

theorem ctlOtherAbort_disabled
    (h : ¬ ((s.ctl b).Runs ∧ (s.ctl b).inflight ≠ none ∧ s.params.OTHER_ABORTS = true)) :
    ctlOtherAbort b s = .next s := by
  exact if_neg (by rwa [Ctl.canRun_iff])

/-- The two draws of an abort of the bus's own, the value and then the extra bits, depend on the inputs alone. -/
theorem exists_ctlOtherAbort (h : (s.ctl b).Runs ∧ (s.ctl b).inflight ≠ none ∧ s.params.OTHER_ABORTS = true) :
    ∃ t, runPick (.otherAbort b) s = .next t ∧ CtlBecomes b s { s.ctl b with
      abrtSrc := (s.ctl b).abrtSrc ||| (drawAbort s).1.value ||| (drawExtra (drawAbort s).2).1
      txq := [], inflight := none, pendingStop := true } t := by
  obtain ⟨o1, h1⟩ := drawAbort_snd (s.setCur (.ctl b))
  have habort := drawAbort_congr (s := s.setCur (.ctl b)) (t := s) rfl
  obtain ⟨o2, h2⟩ := abortWith_spec b (drawAbort (s.setCur (.ctl b))).1.value (drawAbort (s.setCur (.ctl b))).2
  rw [(drawExtra_congr habort.2).1, habort.1, h1] at h2
  refine ⟨_, ?_, ((CtlBecomes.setCtl b s (.ctl b) _).setOracle o1).setOracle o2⟩
  have hcan : (s.ctl b).canRun = true := (Ctl.canRun_iff _).2 h.1
  rw [runPick, ctlOtherAbort, if_pos (by exact ⟨hcan, h.2⟩), habort.1, h1, h2]
  rfl

end OtherAbort

/-- Settles O51: the value drawn is not zero, so neither is the abort source. -/
theorem otherAbortNeedsACommandInFlight : Obligations.OtherAbortNeedsACommandInFlight := by
  intro b s x enabled v extra
  have hne : v ≠ 0 := AbortDraw.value_ne_zero _
  by_cases h : enabled
  · obtain ⟨t, hrun, hctl, heng, hother, hlocks, hmem, hcores⟩ := exists_ctlOtherAbort h
    refine ⟨t, hrun, heng, hother, hlocks, hmem, hcores, fun _ => ?_, absurd h⟩
    rw [hctl]
    refine ⟨hne, ⟨extra, by rw [List.append_nil]⟩, rfl, fun h0 => hne ?_⟩
    exact (BitVec.or_eq_zero_iff.1 (BitVec.or_eq_zero_iff.1 h0).1).2
  · obtain ⟨hctl, heng, hother, hlocks, hmem, hcores⟩ := CtlBecomes.passes b s (.ctl b)
    exact ⟨_, ctlOtherAbort_disabled (s := s.setCur (.ctl b)) h, heng, hother, hlocks, hmem, hcores, (absurd · h),
      fun _ => hctl⟩

/-! ## PERFORM (R93 to R97) -/

section Perform

variable {b : BusId} {s : State} {restart : Bool} {rw' : Dir} {go : State → State}

/-- The address phase of a command, acknowledged (R94): its events, with the acknowledge drawn. -/
def State.addressed (b : BusId) (fr : BusEvent) (a : BitVec 7) (rw' : Dir) (s : State) : State :=
  (s.setCtl b { s.ctl b with trace := (s.ctl b).trace ++ [fr, .ADDR a rw', .ACK] }).setOracle (drawAck s).2.oracle

@[simp] theorem State.ctl_addressed (fr : BusEvent) (a : BitVec 7) (rw' : Dir) :
    (s.addressed b fr a rw').ctl b = { s.ctl b with trace := (s.ctl b).trace ++ [fr, .ADDR a rw', .ACK] } :=
  State.ctl_setCtl ..

theorem withFraming_goesOn (h : (s.ctl b).busOpen = true ∧ restart = false ∧ (s.ctl b).dir = rw') :
    withFraming b restart rw' go s = .next (go s) := by
  simp only [withFraming, Ctl.framing_eq_none.2 h, if_true]

/-- A command with a framing of its own (R93) has an address phase (R94). -/
theorem withFraming_addressPhase {a : BitVec 7} (h : ¬ ((s.ctl b).busOpen = true ∧ restart = false ∧ (s.ctl b).dir = rw'))
    (ha : (s.ctl b).tar = some a) :
    let fr := if (s.ctl b).busOpen = false then BusEvent.START else .RESTART
    ((drawAck s).1 = true → withFraming b restart rw' go s = .next (go (s.addressed b fr a rw'))) ∧
      ((drawAck s).1 = false → ∃ y o, withFraming b restart rw' go s = .next ((s.setCtl b y).setOracle o) ∧
        AbortedWith 1 [fr, .ADDR a rw', .NACK] (s.ctl b) y) := by
  have hfr : (s.ctl b).framing restart rw' ≠ .NONE := mt Ctl.framing_eq_none.1 h
  have hrun : withFraming b restart rw' go s =
      .next (addressPhase b ((s.ctl b).framing restart rw') a rw' go s) := by
    simp only [withFraming, if_neg hfr, ha]
  obtain ⟨o, ho, hack, hnack⟩ := addressPhase_spec b ((s.ctl b).framing restart rw') a rw' go s
  obtain rfl : o = (drawAck s).2.oracle := by rw [← ho]; rfl
  rw [Ctl.framing_events hfr] at hack hnack
  refine ⟨fun h1 => hrun.trans (congrArg _ (hack h1)), fun h1 => ?_⟩
  obtain ⟨y, o, ht, habort⟩ := hnack h1
  exact ⟨y, o, hrun.trans (congrArg _ ht), habort⟩

theorem execCmdWrite_enabled {dat : Byte} {stop : Bool} (hc : s.cur = .ctl b) (hrun : (s.ctl b).Runs)
    (hin : (s.ctl b).inflight ≠ none) :
    exec (.cmdWrite dat stop restart) s = withFraming b restart .W (writeData b dat stop) s := by
  obtain rfl : s.cur.bus = b := by rw [hc]; rfl
  exact if_pos ⟨(Ctl.canRun_iff _).2 hrun, hin⟩

theorem execCmdWrite_disabled {dat : Byte} {stop : Bool} (hc : s.cur = .ctl b)
    (h : ¬ (s.ctl b).Runs ∨ (s.ctl b).inflight = none) : exec (.cmdWrite dat stop restart) s = .next s := by
  obtain rfl : s.cur.bus = b := by rw [hc]; rfl
  exact if_neg fun ⟨hrun, hin⟩ => h.elim (absurd ((Ctl.canRun_iff _).1 hrun)) hin

theorem execCmdRead_enabled {dat : Byte} {stop : Bool} (hc : s.cur = .ctl b) (hrun : (s.ctl b).Runs)
    (hin : (s.ctl b).inflight ≠ none) (hroom : (s.ctl b).rxq.length < s.params.RXQ_DEPTH) :
    exec (.cmdRead dat stop restart) s = withFraming b restart .R (readData b stop) s := by
  obtain rfl : s.cur.bus = b := by rw [hc]; rfl
  exact if_pos ⟨(Ctl.canRun_iff _).2 hrun, hin, hroom⟩

theorem execCmdRead_disabled {dat : Byte} {stop : Bool} (hc : s.cur = .ctl b)
    (h : ¬ (s.ctl b).Runs ∨ (s.ctl b).inflight = none ∨ s.params.RXQ_DEPTH ≤ (s.ctl b).rxq.length) :
    exec (.cmdRead dat stop restart) s = .next s := by
  obtain rfl : s.cur.bus = b := by rw [hc]; rfl
  refine if_neg fun ⟨hrun, hin, hroom⟩ => ?_
  rcases h with h | h | h
  · exact h ((Ctl.canRun_iff _).1 hrun)
  · exact hin h
  · exact absurd hroom (Nat.not_lt.2 h)

end Perform

/-- Settles O49: neither command meets its condition. -/
theorem aDisabledControllerPerformsNothing : Obligations.ADisabledControllerPerformsNothing := by
  intro b dat stop restart s hc
  exact ⟨fun h => ⟨execCmdWrite_disabled hc h, execCmdRead_disabled hc (h.imp_right .inl)⟩,
    fun h => execCmdRead_disabled hc (.inr (.inr h))⟩

/-- A command changes its controller and the inputs, also after an address phase. -/
theorem command_frame (b : BusId) (fr : BusEvent) (a : BitVec 7) (rw' : Dir) (y : Ctl) (o : Oracle) (s : State) :
    (((s.addressed b fr a rw').setCtl b y).setOracle o) = (s.setCtl b y).setOracle o := by
  simp [State.addressed]

/-- Settles O47: the data phase alone, or after the address phase and what it has drawn. -/
theorem cmdWritePerformsItsCommand : Obligations.CmdWritePerformsItsCommand := by
  intro b dat stop restart s a hc hrun hin htar x goesOn framing ack1 ack2
  rw [execCmdWrite_enabled hc hrun hin]
  by_cases hgo : goesOn
  · obtain ⟨y, o, ht, hack, hnack⟩ := writeData_spec b dat stop s
    obtain ⟨heng, honly, hcores⟩ := setCtl_frame b y o s
    refine ⟨_, (withFraming_goesOn hgo).trans (congrArg _ ht), heng, honly, hcores, ?_⟩
    simpa [hgo] using And.intro hack hnack
  obtain ⟨hack1, hnack1⟩ := withFraming_addressPhase (go := writeData b dat stop) hgo htar
  cases h1 : ack1 with
  | false =>
    obtain ⟨y, o, ht, habort⟩ := hnack1 h1
    obtain ⟨heng, honly, hcores⟩ := setCtl_frame b y o s
    refine ⟨_, ht, heng, honly, hcores, ?_⟩
    simpa [hgo] using habort
  | true =>
    obtain ⟨y, o, ht, hack2, hnack2⟩ := writeData_spec b dat stop (s.addressed b framing a .W)
    have hdraw := (drawAck_congr (s := s.addressed b framing a .W) (t := (drawAck s).2) rfl).1
    rw [hdraw, State.ctl_addressed] at hack2 hnack2
    rw [command_frame] at ht
    obtain ⟨heng, honly, hcores⟩ := setCtl_frame b y o s
    refine ⟨_, (hack1 h1).trans (congrArg _ ht), heng, honly, hcores, ?_⟩
    simpa [hgo] using And.intro (fun h => ⟨(hack2 h).1.after, (hack2 h).2⟩) fun h => (hnack2 h).after

/-- Settles O48: the data phase alone, or after the address phase and what it has drawn. -/
theorem cmdReadPerformsItsCommand : Obligations.CmdReadPerformsItsCommand := by
  intro b dat stop restart s a hc hrun hin hroom htar x goesOn framing ack d last
  have hlast : ackEvent (!stop) = last := by cases stop <;> rfl
  rw [execCmdRead_enabled hc hrun hin hroom]
  by_cases hgo : goesOn
  · have hd : d = (drawByte s).1 := if_pos hgo
    obtain ⟨y, o, ht, hend, hrxq⟩ := readData_spec b stop s
    rw [← hd, hlast] at hend
    obtain ⟨heng, honly, hcores⟩ := setCtl_frame b y o s
    refine ⟨_, (withFraming_goesOn hgo).trans (congrArg _ ht), heng, honly, hcores, ?_⟩
    simpa [hgo, hd] using And.intro hend hrxq
  have hd : d = (drawByte (drawAck s).2).1 := if_neg hgo
  obtain ⟨hack1, hnack1⟩ := withFraming_addressPhase (go := readData b stop) hgo htar
  cases h1 : ack with
  | false =>
    obtain ⟨y, o, ht, habort⟩ := hnack1 h1
    obtain ⟨heng, honly, hcores⟩ := setCtl_frame b y o s
    refine ⟨_, ht, heng, honly, hcores, ?_⟩
    simpa [hgo] using habort
  | true =>
    obtain ⟨y, o, ht, hend, hrxq⟩ := readData_spec b stop (s.addressed b framing a .R)
    have hdraw := (drawByte_congr (s := s.addressed b framing a .R) (t := (drawAck s).2) rfl).1
    rw [hdraw, ← hd, State.ctl_addressed] at hend hrxq
    rw [hlast] at hend
    rw [command_frame] at ht
    obtain ⟨heng, honly, hcores⟩ := setCtl_frame b y o s
    refine ⟨_, (hack1 h1).trans (congrArg _ ht), heng, honly, hcores, ?_⟩
    simpa [hgo] using And.intro hend.after hrxq

/-! ## The addresses on the bus (R108, R141) -/

/-- An address the entry checks let through is a legal target in the seven bits of `TAR` (R20, R141). -/
theorem legalTarget_setWidth : ∀ {a : BitVec ADDR_WIDTH}, badAddress a = false → LegalTarget (a.setWidth 7) := by
  unfold LegalTarget
  decide

/-- The addresses of a trace, each in `x`'s trace or its target register. -/
def AddressesOf (x y : Ctl) : Prop :=
  ∀ a rw', BusEvent.ADDR a rw' ∈ y.trace → BusEvent.ADDR a rw' ∈ x.trace ∨ x.tar = some a

section Addresses

variable {b : BusId} {s : State} {x y : Ctl}

/-- Events with no address in them but the target's. -/
theorem AddressesOf.append {ev : List BusEvent} (ht : y.trace = x.trace ++ ev)
    (hev : ∀ a rw', BusEvent.ADDR a rw' ∈ ev → x.tar = some a) : AddressesOf x y := by
  intro a rw' h
  rw [ht, List.mem_append] at h
  exact h.imp_right (hev a rw')

theorem AddressesOf.ended {stop : Bool} {rw' : Dir} {ev : List BusEvent} (h : EndedCommand stop rw' ev x y)
    (hev : ∀ a rw', BusEvent.ADDR a rw' ∈ ev → x.tar = some a) : AddressesOf x y := .append h.1 hev

theorem AddressesOf.aborted {m : Word} {ev : List BusEvent} (h : AbortedWith m ev x y)
    (hev : ∀ a rw', BusEvent.ADDR a rw' ∈ ev → x.tar = some a) : AddressesOf x y := by
  obtain ⟨_, rfl⟩ := h
  exact .append rfl hev

theorem writeData_addresses (b : BusId) (dat : Byte) (stop : Bool) (s : State) :
    AddressesOf (s.ctl b) ((writeData b dat stop s).ctl b) := by
  obtain ⟨y, o, ht, hack, hnack⟩ := writeData_spec b dat stop s
  rw [ht, State.ctl_setOracle, State.ctl_setCtl]
  cases h : (drawAck s).1 with
  | false => exact .aborted (hnack h) (by simp)
  | true => exact .ended (hack h).1 (by simp)

theorem readData_addresses (b : BusId) (stop : Bool) (s : State) :
    AddressesOf (s.ctl b) ((readData b stop s).ctl b) := by
  obtain ⟨y, o, ht, hend, _⟩ := readData_spec b stop s
  rw [ht, State.ctl_setOracle, State.ctl_setCtl]
  exact .ended hend (by cases stop <;> simp [ackEvent])

/-- A command's own address is the target register's (R94). -/
theorem withFraming_addressesOf {restart : Bool} {rw' : Dir} {go : State → State} {t : State}
    (hgo : ∀ u, AddressesOf (u.ctl b) ((go u).ctl b)) (h : withFraming b restart rw' go s = .next t) :
    AddressesOf (s.ctl b) (t.ctl b) := by
  by_cases hon : (s.ctl b).busOpen = true ∧ restart = false ∧ (s.ctl b).dir = rw'
  · obtain rfl := Host.Outcome.next.inj ((withFraming_goesOn hon).symm.trans h)
    exact hgo s
  cases htar : (s.ctl b).tar with
  | none => simp [withFraming, mt Ctl.framing_eq_none.1 hon, htar, fatal] at h
  | some a =>
    obtain ⟨hack, hnack⟩ := withFraming_addressPhase (go := go) hon htar
    have hev : ∀ k, k = BusEvent.ACK ∨ k = .NACK → ∀ a' d, BusEvent.ADDR a' d ∈
        [if (s.ctl b).busOpen = false then BusEvent.START else .RESTART, .ADDR a rw', k] → (s.ctl b).tar = some a' := by
      rintro _ (rfl | rfl) a' d hmem <;> split at hmem <;> simp_all
    cases h1 : (drawAck s).1 with
    | false =>
      obtain ⟨y, o, ht, habort⟩ := hnack h1
      obtain rfl := Host.Outcome.next.inj (ht.symm.trans h)
      rw [State.ctl_setOracle, State.ctl_setCtl]
      exact .aborted habort (hev .NACK (.inr rfl))
    | true =>
      obtain rfl := Host.Outcome.next.inj ((hack h1).symm.trans h)
      intro a' d hmem
      have hu := hgo _ a' d hmem
      rw [State.ctl_addressed] at hu
      refine hu.elim (fun hmem => ?_) .inr
      exact (List.mem_append.1 hmem).imp_right (hev .ACK (.inl rfl) a' d)

theorem AddressesOf.refl (x : Ctl) : AddressesOf x x := fun _ _ => .inl

theorem performStep_addressesOf {t : State} (h : performStep b s = .next t) : AddressesOf (s.ctl b) (t.ctl b) := by
  cases hin : (s.ctl b).inflight with
  | none =>
    simp only [performStep, hin, noStep, Host.Outcome.next.injEq] at h
    exact h ▸ .refl _
  | some w =>
    rw [performStep_of_inflight hin] at h
    unfold decodeCmdw at h
    split at h
    all_goals
      simp only [exec, execCmdWrite, execCmdRead] at h
      split at h
    · exact withFraming_addressesOf (s := s.setCur (.ctl b)) (readData_addresses b _) h
    · exact Host.Outcome.next.inj h ▸ .refl _
    · exact withFraming_addressesOf (s := s.setCur (.ctl b)) (writeData_addresses b _ _) h
    · exact Host.Outcome.next.inj h ▸ .refl _

/-! ## Only legal addresses -/

/-- The clauses of `State.AddrInv` for one bus. -/
def AddrOk (e : Engine) (x : Ctl) : Prop :=
  (e.state = .SETUP → badAddress e.addr = false) ∧ (∀ a, x.tar = some a → LegalTarget a) ∧
    ∀ a rw', BusEvent.ADDR a rw' ∈ x.trace → LegalTarget a

theorem addrInv_iff (s : State) : s.AddrInv ↔ ∀ b, AddrOk (s.eng b) (s.ctl b) := Iff.rfl

variable {p : Params} {e e' : Engine}

/-- The engine enters SETUP only past the entry checks, and keeps its address there (R141). -/
theorem EngMove.setupAddress (h : EngMove p e x e' y) (hi : e.state = .SETUP → badAddress e.addr = false)
    (hs : e'.state = .SETUP) : badAddress e'.addr = false := by
  cases h
  case stay => exact hi hs
  case poll => exact hi hs
  case checked ha => exact ha
  case setupDisable h _ => exact hi h
  case setupTar h _ => exact hi h
  case setupEnable h _ => exact hi h
  all_goals simp_all

/-- The engine writes the target register in SETUP alone (R20, R145). -/
theorem EngMove.tar (h : EngMove p e x e' y) :
    y.tar = x.tar ∨ y.tar = none ∨ (e.state = .SETUP ∧ y.tar = some (e.addr.setWidth 7)) := by
  cases h
  case setupTar h _ =>
    split
    · exact .inl rfl
    · exact .inr (.inr ⟨h, rfl⟩)
  case blockReset => exact .inr (.inl rfl)
  case baudWritten hw => exact .inl hw.keeps.tar
  case programCon => split <;> exact .inl rfl
  all_goals exact .inl rfl

theorem EngMove.addrOk (h : EngMove p e x e' y) (hi : AddrOk e x) : AddrOk e' y := by
  obtain ⟨hsetup, htar, htrace⟩ := hi
  refine ⟨h.setupAddress hsetup, fun a ha => ?_, h.trace ▸ htrace⟩
  rcases h.tar with hy | hy | ⟨hs, hy⟩ <;> rw [hy] at ha
  · exact htar a ha
  · cases ha
  · cases ha
    exact legalTarget_setWidth (hsetup hs)

/-- A controller step that writes no target register keeps the clauses. -/
theorem AddrOk.of_controller (hi : AddrOk e x) (htar : y.tar = x.tar) (htrace : AddressesOf x y) : AddrOk e y := by
  obtain ⟨hsetup, hlegal, hpast⟩ := hi
  exact ⟨hsetup, fun a ha => hlegal a (htar ▸ ha), fun a rw' h => (htrace a rw' h).elim (hpast a rw') (hlegal a)⟩

theorem BusMove.addrOk {pick : Pick} (h : BusMove pick b p e x e' y) (hperf : pick = .perform b → AddressesOf x y)
    (hi : AddrOk e x) : AddrOk e' y := by
  cases h
  case same => exact hi
  case accepted h =>
    refine ⟨fun hs => ?_, hi.2⟩
    rcases h.starts with ⟨g, _⟩ | g <;> cases g.symm.trans hs
  case engine h => exact h.addrOk hi
  case loaded => exact hi.of_controller rfl (.refl x)
  case performed hp h =>
    obtain ⟨_, htar, _⟩ := h.registers
    exact hi.of_controller htar (hperf hp)
  case stopped => exact hi.of_controller rfl (.append rfl (by simp))
  case aborted h => exact hi.of_controller (by obtain ⟨_, rfl⟩ := h; rfl) (.aborted h (by simp))

end Addresses

/-- Settles O58: the engine lets only checked addresses into the target register, and a command takes its own from there. -/
theorem onlyLegalAddressesReachTheBus : Obligations.OnlyLegalAddressesReachTheBus := by
  intro s t hi hstep
  refine (addrInv_iff t).2 fun b => ((step_moved hstep).2 b).addrOk (fun hp => ?_) ((addrInv_iff s).1 hi b)
  obtain ⟨o, ho⟩ := step_pick s
  rw [hp, hstep] at ho
  exact performStep_addressesOf (s := s.setOracle o) ho.symm

/-! ## Progress (R91) -/

/-- A pick of the stop ends a pending stop (R100). -/
theorem step_stop {b : BusId} {s t : State} (hstep : step s = .next t) (hp : s.pick = .stop b)
    (h : (s.ctl b).pendingStop = true) : (t.ctl b).pendingStop = false := by
  obtain ⟨o, ho⟩ := step_pick s
  have hstop := ctlStop_pending (b := b) (s := (s.setOracle o).setCur (.ctl b)) h
  obtain rfl := Host.Outcome.next.inj (hstep.symm.trans ((ho.trans (by rw [hp]; rfl)).trans hstop))
  rw [State.ctl_setCtl]

/-- Settles O60: a stop that stayed pending would stay enabled, and be taken. -/
theorem underBusProgressAPendingStopEnds : Obligations.UnderBusProgressAPendingStopEnds := by
  intro b r n hrun hprogress _
  by_contra hnever
  have hpending : ∀ m, n ≤ m → ((r m).ctl b).pendingStop = true := fun m hm =>
    Bool.eq_true_of_not_eq_false fun h => hnever ⟨m, hm, h⟩
  obtain ⟨m, hm, hpick⟩ := hprogress (.stop b) (by simp [ctlPicks]) n hpending
  exact hnever ⟨m + 1, Nat.le_succ_of_le hm, step_stop (hrun m) hpick (hpending m hm)⟩

end Sys2Proof.Machine
end

section
/-! SUPPORT. One bus run alone: a state as its engine, controller, inputs and agent over a base, each pick of that bus as a change
of these, and the parts the whole WRITE and the whole READ share. -/

namespace Sys2Proof.Machine

open Sys2Proof.Config

theorem SameOtherBus.trans {b : BusId} {s t u : State} (h : SameOtherBus b s t) (g : SameOtherBus b t u) :
    SameOtherBus b s u := fun b' hb => ⟨(g b' hb).1.trans (h b' hb).1, (g b' hb).2.trans (h b' hb).2⟩

theorem SameLocks.trans {s t u : State} (h : SameLocks s t) (g : SameLocks t u) : SameLocks s u :=
  ⟨fun n => (g.1 n).trans (h.1 n), g.2.trans h.2⟩

/-! ## A bus over a base state -/

/-- The state `s` with engine `e` and controller `x` at bus `b`, inputs `o`, and `ag` the agent. -/
def State.onBus (b : BusId) (e : Engine) (x : Ctl) (o : Oracle) (ag : Agent) (s : State) : State :=
  (((s.setCur ag).setOracle o).setCtl b x).setEng b e

section OnBus

variable {b : BusId} {e : Engine} {x : Ctl} {o : Oracle} {ag : Agent} {s : State}

theorem State.onBus_self (b : BusId) (s : State) : s.onBus b (s.eng b) (s.ctl b) s.oracle s.cur = s := by
  cases s; cases b <;> rfl

@[simp] theorem State.eng_onBus : (s.onBus b e x o ag).eng b = e := by simp [State.onBus]
@[simp] theorem State.ctl_onBus : (s.onBus b e x o ag).ctl b = x := by simp [State.onBus]
@[simp] theorem State.oracle_onBus : (s.onBus b e x o ag).oracle = o := rfl
@[simp] theorem State.cur_onBus : (s.onBus b e x o ag).cur = ag := rfl
@[simp] theorem State.params_onBus : (s.onBus b e x o ag).params = s.params := rfl
@[simp] theorem State.setEng_onBus (e' : Engine) : (s.onBus b e x o ag).setEng b e' = s.onBus b e' x o ag := by
  simp [State.onBus]
@[simp] theorem State.setCtl_onBus (y : Ctl) : (s.onBus b e x o ag).setCtl b y = s.onBus b e y o ag := by
  simp [State.onBus]
@[simp] theorem State.setOracle_onBus (o' : Oracle) : (s.onBus b e x o ag).setOracle o' = s.onBus b e x o' ag := by
  simp [State.onBus]
@[simp] theorem State.setCur_onBus (ag' : Agent) : (s.onBus b e x o ag).setCur ag' = s.onBus b e x o ag' := by
  simp [State.onBus]
@[simp] theorem goto_onBus (st : EngState) (sub : Nat) :
    goto b st sub (s.onBus b e x o ag) = s.onBus b { e with state := st, sub := sub } x o ag := by
  simp [goto_eq]

/-- All but the one bus is the base's. -/
theorem State.onBus_frame (b : BusId) (e : Engine) (x : Ctl) (o : Oracle) (ag : Agent) (s : State) :
    SameOtherBus b s (s.onBus b e x o ag) ∧ SameLocks s (s.onBus b e x o ag) ∧ SameMemory s (s.onBus b e x o ag) ∧
      SameCores s (s.onBus b e x o ag) := by
  refine ⟨fun b' hb => ⟨?_, ?_⟩, ⟨fun _ => rfl, rfl⟩, ⟨fun _ => rfl, rfl⟩, fun _ => rfl⟩
  · simp [State.onBus, State.eng_setEng_ne _ _ hb]
  · simp [State.onBus, State.ctl_setCtl_ne _ _ hb]

end OnBus

/-! ## The commands of one call -/

/-- The controller `x` after a command that was not aborted, with the bus events `ev` (R99). -/
def Ctl.performed (stop : Bool) (rw' : Dir) (ev : List BusEvent) (x : Ctl) : Ctl :=
  if stop then { x with trace := x.trace ++ ev, inflight := none, pendingStop := true }
  else { x with trace := x.trace ++ ev, inflight := none, busOpen := true, dir := rw' }

section Performed

variable (stop : Bool) (rw' : Dir) (ev : List BusEvent) (x : Ctl)

@[simp] theorem Ctl.performed_trace : (x.performed stop rw' ev).trace = x.trace ++ ev := by cases stop <;> rfl
@[simp] theorem Ctl.performed_inflight : (x.performed stop rw' ev).inflight = none := by cases stop <;> rfl
@[simp] theorem Ctl.performed_con : (x.performed stop rw' ev).con = x.con := by cases stop <;> rfl
@[simp] theorem Ctl.performed_txq : (x.performed stop rw' ev).txq = x.txq := by cases stop <;> rfl
@[simp] theorem Ctl.performed_rxq : (x.performed stop rw' ev).rxq = x.rxq := by cases stop <;> rfl
@[simp] theorem Ctl.performed_abrtSrc : (x.performed stop rw' ev).abrtSrc = x.abrtSrc := by cases stop <;> rfl

end Performed

/-- The bus events before a call's data phase: of its first command the start and the acknowledged address (R93, R94). -/
def Ctl.header (a : BitVec 7) (rw' : Dir) (x : Ctl) : List BusEvent :=
  if x.busOpen then [] else [.START, .ADDR a rw', .ACK]

theorem Ctl.header_of_open {a : BitVec 7} {rw' : Dir} {x : Ctl} (h : x.busOpen = true) : x.header a rw' = [] := if_pos h

/-- The acknowledges a call's next command draws for its address phase, all of them true. -/
def Ctl.addressAcks (x : Ctl) : List Bool := if x.busOpen then [] else [true]

/-- The controller may run a call to the target `a` in direction `rw'` and has nothing of it left to do: between two commands the
bus is open in that direction, and before the first it is free. -/
structure Ctl.Ready (a : BitVec 7) (rw' : Dir) (x : Ctl) : Prop where
  runs : x.Runs
  tar : x.tar = some a
  txq : x.txq = []
  inflight : x.inflight = none
  pendingStop : x.pendingStop = false
  dir : x.busOpen = true → x.dir = rw'

theorem Ctl.Ready.performed {a : BitVec 7} {rw' : Dir} {x : Ctl} (h : x.Ready a rw') (ev : List BusEvent) :
    (x.performed false rw' ev).Ready a rw' :=
  ⟨h.runs, h.tar, h.txq, rfl, h.pendingStop, fun _ => rfl⟩

section Command

variable {b : BusId} {e : Engine} {x : Ctl} {o : Oracle} {ag : Agent} {s : State} {a : BitVec 7} {rw' : Dir}

/-- R93, R94: the framing of a call's command, its address acknowledged. -/
theorem withFraming_onBus {restart : Bool} {go : State → State} {r : List Bool} (htar : x.tar = some a)
    (hdir : x.busOpen = true → restart = false ∧ x.dir = rw') (hacks : o.acks = x.addressAcks ++ r) :
    withFraming b restart rw' go (s.onBus b e x o ag) =
      .next (go (s.onBus b e { x with trace := x.trace ++ x.header a rw' } { o with acks := r } ag)) := by
  by_cases hopen : x.busOpen = true
  · rw [withFraming_goesOn (by simpa [hopen] using hdir hopen)]
    have ho : o = { o with acks := r } := by rw [← (show o.acks = r by simpa [Ctl.addressAcks, hopen] using hacks)]
    rw [Ctl.header_of_open hopen, List.append_nil, ← ho]
  · have hacks' : (s.onBus b e x o ag).oracle.acks = true :: r := by simpa [Ctl.addressAcks, hopen] using hacks
    have hdraw := drawAck_cons hacks'
    have haddress := (withFraming_addressPhase (b := b) (s := s.onBus b e x o ag) (restart := restart) (rw' := rw')
      (go := go) (by simp [hopen]) (by rw [State.ctl_onBus, htar])).1 (by rw [hdraw])
    rw [haddress]
    simp [State.addressed, hdraw, Ctl.header, hopen]

/-- R92: LOAD takes the one word the engine has queued. -/
theorem runPick_load_onBus {w : CmdWord} (h : x.Ready a rw') :
    runPick (.load b) (s.onBus b e { x with txq := [w] } o ag) =
      .next (s.onBus b e { x with inflight := some w } o (.ctl b)) := by
  have hload := ctlLoad_enabled (b := b) (s := s.onBus b e { x with txq := [w] } o (.ctl b)) (w := w) (r := [])
    (by rw [State.ctl_onBus]; exact h.runs) (by rw [State.ctl_onBus]; exact h.inflight)
    (by rw [State.ctl_onBus]; exact h.pendingStop) (by rw [State.ctl_onBus])
  simpa [runPick, h.txq] using hload

/-- R95, R99: the data phase of a CMD_WRITE that is acknowledged. -/
theorem writeData_onBus {dat : Byte} {stop : Bool} {r : List Bool} (hacks : o.acks = true :: r) :
    writeData b dat stop (s.onBus b e x o ag) =
      s.onBus b e (x.performed stop .W [.DATA_W dat, .ACK]) { o with acks := r } ag := by
  have hdraw := drawAck_cons (s := s.onBus b e { x with trace := x.trace ++ [.DATA_W dat] } o ag) hacks
  cases stop <;> simp [writeData, emit_eq, hdraw, endCommand, Ctl.performed, ackEvent]

/-- R97, R99: the data phase of a CMD_READ. -/
theorem readData_onBus {dat : Byte} {stop : Bool} {r : List Byte} (hbytes : o.bytes = dat :: r) :
    readData b stop (s.onBus b e x o ag) =
      s.onBus b e ({ x with rxq := x.rxq ++ [dat] }.performed stop .R [.DATA_R dat, ackEvent (!stop)])
        { o with bytes := r } ag := by
  have hdraw := drawByte_cons (s := s.onBus b e x o ag) hbytes
  cases stop <;> simp [readData, emit_eq, hdraw, endCommand, Ctl.performed]

/-- PERFORM of a call's CMD_WRITE, its byte and, on a free bus, its address acknowledged. -/
theorem runPick_perform_write {dat : Byte} {stop restart : Bool} {r : List Bool} (h : x.Ready a .W)
    (hrestart : x.busOpen = true → restart = false) (hacks : o.acks = x.addressAcks ++ true :: r) :
    runPick (.perform b) (s.onBus b e { x with inflight := some (cmdw restart stop false dat) } o ag) =
      .next (s.onBus b e (x.performed stop .W (x.header a .W ++ [.DATA_W dat, .ACK])) { o with acks := r } (.ctl b)) := by
  rw [runPick, performStep_of_inflight (by rw [State.ctl_onBus]), decodeCmdw_cmdw, State.setCur_onBus,
    if_neg nofun, execCmdWrite_enabled rfl (by rw [State.ctl_onBus]; exact h.runs) (by rw [State.ctl_onBus]; nofun),
    withFraming_onBus (x := { x with inflight := some _ }) h.tar (fun hopen => ⟨hrestart hopen, h.dir hopen⟩) hacks,
    writeData_onBus rfl]
  cases stop <;> simp [Ctl.performed, Ctl.header]

/-- PERFORM of a call's CMD_READ, on a free bus its address acknowledged. -/
theorem runPick_perform_read {dat : Byte} {stop restart : Bool} {r : List Bool} {bytes : List Byte} (h : x.Ready a .R)
    (hroom : x.rxq.length < s.params.RXQ_DEPTH) (hrestart : x.busOpen = true → restart = false)
    (hacks : o.acks = x.addressAcks ++ r) (hbytes : o.bytes = dat :: bytes) :
    runPick (.perform b) (s.onBus b e { x with inflight := some (cmdw restart stop true 0) } o ag) =
      .next (s.onBus b e ({ x with rxq := x.rxq ++ [dat] }.performed stop .R
        (x.header a .R ++ [BusEvent.DATA_R dat, ackEvent (!stop)])) { o with acks := r, bytes := bytes } (.ctl b)) := by
  rw [runPick, performStep_of_inflight (by rw [State.ctl_onBus]), decodeCmdw_cmdw, State.setCur_onBus, if_pos rfl,
    execCmdRead_enabled rfl (by rw [State.ctl_onBus]; exact h.runs) (by rw [State.ctl_onBus]; nofun)
      (by rw [State.ctl_onBus]; exact hroom),
    withFraming_onBus (x := { x with inflight := some _ }) h.tar (fun hopen => ⟨hrestart hopen, h.dir hopen⟩) hacks,
    readData_onBus (o := { o with acks := r }) hbytes]
  cases stop <;> simp [Ctl.performed, Ctl.header]

/-- R100: STOP of a pending stop. -/
theorem runPick_stop_onBus (h : x.pendingStop = true) :
    runPick (.stop b) (s.onBus b e x o ag) =
      .next (s.onBus b e { x with trace := x.trace ++ [.STOP], busOpen := false, pendingStop := false, stopDet := true } o
        (.ctl b)) := by
  have hstop := ctlStop_pending (b := b) (s := s.onBus b e x o (.ctl b)) (by rw [State.ctl_onBus]; exact h)
  simpa [runPick] using hstop

end Command

/-! ## The engine's picks -/

section Picks

variable {b : BusId} {e : Engine} {x : Ctl} {o : Oracle} {ag : Agent} {s : State}

/-- A pick of an engine that runs a WRITE is a step of the call. -/
theorem runPick_eng_write (hop : e.op = .WRITE) (hst : e.state ≠ .IDLE) :
    runPick (.eng b) (s.onBus b e x o ag) = writeCallStep b (s.onBus b e x o (.eng b)) := by
  rw [runPick, engStep_of_ne_idle (by rwa [State.eng_onBus]), State.eng_onBus, State.setCur_onBus]
  simp only [Engine.instr, hop]
  exact exec_write_eng rfl

/-- A pick of an engine that runs a READ is a step of the call. -/
theorem runPick_eng_read (hop : e.op = .READ) (hst : e.state ≠ .IDLE) :
    runPick (.eng b) (s.onBus b e x o ag) = readCallStep b (s.onBus b e x o (.eng b)) := by
  rw [runPick, engStep_of_ne_idle (by rwa [State.eng_onBus]), State.eng_onBus, State.setCur_onBus]
  simp only [Engine.instr, hop]
  exact exec_read_eng rfl

/-- The two calls and the states their loops start from. -/
def EngOp.CallFrom (op : EngOp) (first : EngState) : Prop :=
  (op = .WRITE ∧ first = .ISSUE) ∨ (op = .READ ∧ first = .WAIT_SPACE)

theorem runPick_eng_check {first : EngState} (hop : e.op.CallFrom first) (hst : e.state = .CHECK) :
    runPick (.eng b) (s.onBus b e x o ag) = entryChecks b (s.onBus b e x o (.eng b)) := by
  rcases hop with ⟨hop, _⟩ | ⟨hop, _⟩
  · rw [runPick_eng_write hop (by rw [hst]; decide)]
    simp [writeCallStep, hst]
  · rw [runPick_eng_read hop (by rw [hst]; decide)]
    simp [readCallStep, hst]

theorem runPick_eng_setup {first : EngState} (hop : e.op.CallFrom first) (hst : e.state = .SETUP) :
    runPick (.eng b) (s.onBus b e x o ag) = .next (setupStep b first (s.onBus b e x o (.eng b))) := by
  rcases hop with ⟨hop, rfl⟩ | ⟨hop, rfl⟩
  · rw [runPick_eng_write hop (by rw [hst]; decide)]
    simp [writeCallStep, hst]
  · rw [runPick_eng_read hop (by rw [hst]; decide)]
    simp [readCallStep, hst]

theorem runPick_eng_finish {first : EngState} (hop : e.op.CallFrom first) (hst : e.state = .FINISH)
    (habort : e.abort = false) (hns : e.ns = false) :
    runPick (.eng b) (s.onBus b e x o ag) =
      .next (returnResult b .OK 0 (s.onBus b { e with ron := some false } x o (.eng b))) := by
  have hcall : runPick (.eng b) (s.onBus b e x o ag) = .next (finishCall b (s.onBus b e x o (.eng b))) := by
    rcases hop with ⟨hop, _⟩ | ⟨hop, _⟩
    · rw [runPick_eng_write hop (by rw [hst]; decide)]
      simp [writeCallStep, hst]
    · rw [runPick_eng_read hop (by rw [hst]; decide)]
      simp [readCallStep, hst]
  rw [hcall]
  have hop' : e.op ≠ .TRANSFER := by rcases hop with ⟨hop, _⟩ | ⟨hop, _⟩ <;> rw [hop] <;> decide
  simp [finishCall, callReturn, Engine.outcome, habort, hns, hop']

/-- R141: the entry checks let a configured call with a legal address and a byte to move through. -/
theorem entryChecks_onBus (hc : e.configured = true) (ha : badAddress e.addr = false) (hlen : e.len ≠ 0) :
    entryChecks b (s.onBus b e x o ag) = .next (s.onBus b { e with state := .SETUP, sub := 0 } x o ag) := by
  simp [entryChecks, hc, ha, hlen]

/-- The controller as SETUP leaves it on a free bus (R145). -/
def Ctl.setUp (a : BitVec ADDR_WIDTH) (x : Ctl) : Ctl :=
  { x with en := some true, tar := some (a.setWidth 7), txq := [], rxq := [], inflight := none }

/-- The engine context before the first byte of a call, whose loop starts from `first` (R145). -/
def Engine.started (first : EngState) (e : Engine) : Engine :=
  { e with state := first, sub := 0, abort := false, lastabrt := 0, kabrt := 0, k := 0 }

/-! SETUP's statements (R145) -/

theorem setupStep_disable {first : EngState} (h : e.sub = 0) (hopen : x.busOpen = false) :
    setupStep b first (s.onBus b e x o ag) = s.onBus b { e with state := .SETUP, sub := 1 }
      { x with en := some false, txq := [], rxq := [], inflight := none } o ag := by
  simp [setupStep, h, disable_eq, hopen]

theorem setupStep_tar {first : EngState} (h : e.sub = 1) (hen : x.en = some false) :
    setupStep b first (s.onBus b e x o ag) = s.onBus b { e with state := .SETUP, sub := 2 }
      { x with tar := some (e.addr.setWidth 7) } o ag := by
  simp [setupStep, h, writeTar, hen]

theorem setupStep_enable {first : EngState} (h : e.sub = 2) :
    setupStep b first (s.onBus b e x o ag) = s.onBus b { e with state := .SETUP, sub := 3 }
      { x with en := some true } o ag := by
  simp [setupStep, h, enable_eq]

theorem setupStep_start {first : EngState} {n : Nat} (h : e.sub = n + 3) :
    setupStep b first (s.onBus b e x o ag) = s.onBus b (e.started first) x o ag := by
  simp [setupStep, h, Engine.started]

/-- R141, R145: the entry checks and SETUP's four statements, on a free bus. -/
theorem runPicks_setup {first : EngState} (hop : (s.eng b).op.CallFrom first) (hst : (s.eng b).state = .CHECK)
    (hc : (s.eng b).configured = true) (ha : badAddress (s.eng b).addr = false) (hlen : (s.eng b).len ≠ 0)
    (hopen : (s.ctl b).busOpen = false) :
    runPicks (List.replicate 5 (.eng b)) s = .next (s.onBus b ((s.eng b).started first)
      ((s.ctl b).setUp (s.eng b).addr) s.oracle (.eng b)) := by
  have hcheck := (runPick_eng_check (b := b) (x := s.ctl b) (o := s.oracle) (ag := s.cur) (s := s) hop hst).trans
    (entryChecks_onBus hc ha hlen)
  rw [State.onBus_self] at hcheck
  have setup : ∀ n y t,
      setupStep b first (s.onBus b { s.eng b with state := .SETUP, sub := n } y s.oracle (.eng b)) = t →
      runPick (.eng b) (s.onBus b { s.eng b with state := .SETUP, sub := n } y s.oracle (.eng b)) = .next t :=
    fun n y t ht => (runPick_eng_setup (e := { s.eng b with state := .SETUP, sub := n }) hop rfl).trans (congrArg _ ht)
  refine (runPicks_cons hcheck).trans ?_
  refine (runPicks_cons (setup 0 _ _ (setupStep_disable rfl hopen))).trans ?_
  refine (runPicks_cons (setup 1 _ _ (setupStep_tar rfl rfl))).trans ?_
  refine (runPicks_cons (setup 2 _ _ (setupStep_enable rfl))).trans ?_
  exact (runPicks_cons (setup 3 _ _ (setupStep_start (n := 0) rfl))).trans (runPicks_nil _)

/-- On a free bus a call begins with its start and its address. -/
theorem Ctl.header_setUp {a : BitVec 7} {a8 : BitVec ADDR_WIDTH} {rw' : Dir} (hopen : x.busOpen = false) :
    (x.setUp a8).header a rw' = [.START, .ADDR a rw', .ACK] ∧ (x.setUp a8).addressAcks = [true] := by
  have hclosed : ¬ (x.setUp a8).busOpen = true := by rw [Ctl.setUp, hopen]; decide
  exact ⟨if_neg hclosed, if_neg hclosed⟩

/-- A call of kind `op`, in direction `rw'` to the target `a`, stands before its byte `e.k`, with no abort so far; the bus is free
before the first byte alone. -/
structure BeforeByte (op : EngOp) (first : EngState) (a : BitVec 7) (rw' : Dir) (e : Engine) (x : Ctl) : Prop where
  op : e.op = op
  state : e.state = first
  sub : e.sub = 0
  ron : e.ron ≠ none
  ns : e.ns = false
  abort : e.abort = false
  ready : x.Ready a rw'
  first : x.busOpen = true → e.k ≠ 0

/-- SETUP leaves the call before its first byte. -/
theorem beforeByte_setUp {op : EngOp} {first : EngState} {rw' : Dir} (hop : e.op = op) (hron : e.ron ≠ none)
    (hns : e.ns = false) (hmaster : x.con.masterMode = some true) (hrestart : x.con.restartEn = some true)
    (haddr : x.con.addr10Master = some false) (hopen : x.busOpen = false) (hpending : x.pendingStop = false) :
    BeforeByte op first (e.addr.setWidth 7) rw' (e.started first) (x.setUp e.addr) where
  op := hop
  state := rfl
  sub := rfl
  ron := hron
  ns := hns
  abort := rfl
  ready := ⟨⟨rfl, hmaster, hrestart, haddr⟩, rfl, rfl, rfl, hpending, fun h => nomatch hopen.symm.trans h⟩
  first := fun h => nomatch hopen.symm.trans h

/-- The command word of the call's next byte asks for no repeated start on the open bus (R144). -/
theorem BeforeByte.restart {op : EngOp} {first : EngState} {a : BitVec 7} {rw' : Dir} (h : BeforeByte op first a rw' e x)
    (ron : Bool) (hopen : x.busOpen = true) : (decide (e.k = 0) && ron) = false := by
  simp [h.first hopen]

/-- ISSUE of a call puts the byte's word into the empty queue (R144). -/
theorem issueWord_onBus {cmd ron : Bool} {dat : Byte} {wait : EngState} (hron : e.ron = some ron) (htxq : x.txq = [])
    (hroom : 1 ≤ s.params.TXQ_DEPTH) :
    issueWord b cmd dat wait (s.onBus b e x o ag) = .next (s.onBus b { e with state := wait, sub := 0 }
      { x with txq := [cmdwOf e.k e.len ron e.ns cmd dat] } o ag) := by
  have hlt : 0 < s.params.TXQ_DEPTH := hroom
  simp [issueWord, hron, pushDataCmd, htxq, hlt]

/-- The call ends with OK: the requester has it, and all else but the engine is as it was (R18, R182). -/
theorem returnResult_onBus (hwait : (s.coreOf e.requester).frame.phase = .waitEng b) :
    Returned b e.requester .OK 0 (returnResult b .OK 0 (s.onBus b e x o ag)) ∧
      ((returnResult b .OK 0 (s.onBus b e x o ag)).eng b).ron = e.ron ∧
      (returnResult b .OK 0 (s.onBus b e x o ag)).ctl b = x ∧
      SameOtherBus b s (returnResult b .OK 0 (s.onBus b e x o ag)) ∧
      SameLocks s (returnResult b .OK 0 (s.onBus b e x o ag)) ∧
      SameMemory s (returnResult b .OK 0 (s.onBus b e x o ag)) := by
  have hwaiting : Waiting b (s.onBus b e x o ag) := by rw [Waiting, State.eng_onBus]; exact hwait
  obtain ⟨heng, hctl, ⟨hother, hlocks, hmem, _, _⟩, _, _, _, hret⟩ := returnResult_spec b .OK 0 (s.onBus b e x o ag)
  obtain ⟨hother', _, _, _⟩ := State.onBus_frame b e x o ag s
  rw [State.eng_onBus] at heng hret
  exact ⟨hret hwaiting, by rw [heng], by rw [hctl, State.ctl_onBus], hother'.trans hother, hlocks, hmem⟩

end Picks

end Sys2Proof.Machine
end

section
/-! SUPPORT. A whole acknowledged WRITE: one byte's six picks, all bytes by induction, the stop and the result: obligation O45. -/

namespace Sys2Proof.Machine

open Sys2Proof.Config

section Write

variable {b : BusId} {e : Engine} {x : Ctl} {o : Oracle} {ag : Agent} {s : State} {a : BitVec 7}

/-- The picks of one byte of a WRITE: fetch, queue, LOAD, PERFORM, drain wait, abort check (R146). -/
def writeBytePicks (b : BusId) : List Pick := [.eng b, .eng b, .load b, .perform b, .eng b, .eng b]

/-- The engine context after a byte `d` of a WRITE is acknowledged: the stop wait after the last one, else the next byte. -/
def Engine.wrote (d : Byte) (e : Engine) : Engine :=
  if e.k + 1 = e.len then { e with state := .WAIT_STOP, sub := 0, byte := d }
  else { e with state := .ISSUE, sub := 0, k := e.k + 1, byte := d }

theorem writeByte_fetch {d : Byte} (hop : e.op = .WRITE) (hst : e.state = .ISSUE) (hsub : e.sub = 0)
    (hin : s.params.inMemory (e.operands.wbuf + e.k) = true)
    (hread : readChoices e.requester (e.operands.wbuf + e.k) s = [d]) :
    runPick (.eng b) (s.onBus b e x o ag) = .next (s.onBus b { e with state := .ISSUE, sub := 1, byte := d } x o (.eng b)) := by
  rw [runPick_eng_write hop (by rw [hst]; decide)]
  have hr : memRead e.requester (e.operands.wbuf + e.k) (s.onBus b e x o (.eng b)) = some (d, s.onBus b e x o (.eng b)) :=
    memRead_single hin ((readChoices_congr rfl rfl rfl rfl).trans hread)
  rw [writeCallStep_fetch (by rw [State.eng_onBus, hst]) (by rw [State.eng_onBus, hsub])
    (by rw [State.eng_onBus]; exact hr)]
  simp

theorem writeByte_queue {ron : Bool} (hop : e.op = .WRITE) (hst : e.state = .ISSUE) (hsub : e.sub ≠ 0)
    (hron : e.ron = some ron) (htxq : x.txq = []) (hroom : 1 ≤ s.params.TXQ_DEPTH) :
    runPick (.eng b) (s.onBus b e x o ag) = .next (s.onBus b { e with state := .WAIT_TX_EMPTY, sub := 0 }
      { x with txq := [cmdwOf e.k e.len ron e.ns false e.byte] } o (.eng b)) := by
  rw [runPick_eng_write hop (by rw [hst]; decide),
    writeCallStep_issue (by rw [State.eng_onBus, hst]) (by rwa [State.eng_onBus]), State.eng_onBus,
    issueWord_onBus hron htxq hroom]

theorem writeByte_drained (hop : e.op = .WRITE) (hst : e.state = .WAIT_TX_EMPTY) (hsub : e.sub = 0)
    (hctrl : x.con.txEmptyCtrl = some true) (htxq : x.txq = []) (hin : x.inflight = none) :
    runPick (.eng b) (s.onBus b e x o ag) = .next (s.onBus b { e with state := .CHECK_ABORT, sub := 0 } x o (.eng b)) := by
  have hempty : ((s.onBus b e x o (.eng b)).ctl b).txEmpty = some true := by
    rw [State.ctl_onBus, Ctl.txEmpty_of_ctrl hctrl]
    simp [htxq, hin]
  rw [runPick_eng_write hop (by rw [hst]; decide),
    writeCallStep_drainWait (by rw [State.eng_onBus, hst]) (by rw [State.eng_onBus, hsub]) hempty, if_pos rfl, goto_onBus]

theorem writeByte_checked (hop : e.op = .WRITE) (hst : e.state = .CHECK_ABORT) (hns : e.ns = false)
    (habort : e.abort = false) (hk : e.k < e.len) (habrt : x.abrtSrc = 0) :
    runPick (.eng b) (s.onBus b e x o ag) = .next (s.onBus b (e.wrote e.byte) x o (.eng b)) := by
  have hx : { x with abrtSrc := 0 } = x := by rw [← habrt]
  rw [runPick_eng_write hop (by rw [hst]; decide), writeCallStep_checkAbort (e1 := e) (by rw [State.eng_onBus, hst])
    (by simp [Engine.noted, habrt])]
  simp only [State.ctl_onBus, State.setCtl_onBus, State.setEng_onBus, hx, Engine.needsStop, Engine.last, Engine.wrote,
    Engine.advanced, habort, hns]
  by_cases hlast : e.k + 1 = e.len
  · simp [hlast]
  · have hnext : e.k + 1 < e.len := by omega
    simp [hlast, hnext]

/-- One byte of an acknowledged WRITE. -/
theorem runPicks_writeByte {d : Byte} {r : List Bool} (h : BeforeByte .WRITE .ISSUE a .W e x) (hk : e.k < e.len)
    (hctrl : x.con.txEmptyCtrl = some true) (habrt : x.abrtSrc = 0) (hroom : 1 ≤ s.params.TXQ_DEPTH)
    (hin : s.params.inMemory (e.operands.wbuf + e.k) = true)
    (hread : readChoices e.requester (e.operands.wbuf + e.k) s = [d]) (hacks : o.acks = x.addressAcks ++ true :: r) :
    runPicks (writeBytePicks b) (s.onBus b e x o ag) = .next (s.onBus b (e.wrote d)
      (x.performed (decide (e.k + 1 = e.len)) .W (x.header a .W ++ [.DATA_W d, .ACK])) { o with acks := r } (.eng b)) := by
  obtain ⟨ron, hron⟩ := Option.ne_none_iff_exists'.1 h.ron
  have hready := h.ready
  refine (runPicks_cons (writeByte_fetch h.op h.state h.sub hin hread)).trans ?_
  refine (runPicks_cons (writeByte_queue (e := { e with state := .ISSUE, sub := 1, byte := d }) h.op rfl one_ne_zero
    hron hready.txq hroom)).trans ?_
  refine (runPicks_cons (runPick_load_onBus hready)).trans ?_
  refine (runPicks_cons (runPick_perform_write hready (h.restart ron) hacks)).trans ?_
  refine (runPicks_cons (writeByte_drained (e := { e with state := .WAIT_TX_EMPTY, sub := 0, byte := d }) h.op rfl rfl
    (by rwa [Ctl.performed_con]) (by rw [Ctl.performed_txq, hready.txq]) (Ctl.performed_inflight ..))).trans ?_
  refine (runPicks_cons (writeByte_checked (e := { e with state := .CHECK_ABORT, sub := 0, byte := d }) h.op rfl h.ns
    h.abort hk (by rwa [Ctl.performed_abrtSrc]))).trans ?_
  simp [h.ns, Engine.wrote]

/-- After a byte that is not the last the call stands before the next one. -/
theorem BeforeByte.wrote {ev : List BusEvent} (h : BeforeByte .WRITE .ISSUE a .W e x) (d : Byte)
    (hnext : e.k + 1 ≠ e.len) : BeforeByte .WRITE .ISSUE a .W (e.wrote d) (x.performed false .W ev) := by
  rw [Engine.wrote, if_neg hnext]
  exact ⟨h.op, rfl, rfl, h.ron, h.ns, h.abort, h.ready.performed ev, fun _ => Nat.succ_ne_zero _⟩

/-- Every byte of an acknowledged WRITE, by induction on the bytes left: the bus events in order, and then the stop wait with the
stop pending. -/
theorem runPicks_writeBytes {acks : List Bool} (hroom : 1 ≤ s.params.TXQ_DEPTH) (ds : List Byte) :
    ∀ e x o ag, BeforeByte .WRITE .ISSUE a .W e x → ds ≠ [] → e.k + ds.length = e.len →
      x.con.txEmptyCtrl = some true → x.abrtSrc = 0 →
      (∀ j d, ds[j]? = some d → s.params.inMemory (e.operands.wbuf + (e.k + j)) = true ∧
        readChoices e.requester (e.operands.wbuf + (e.k + j)) s = [d]) →
      o.acks = x.addressAcks ++ List.replicate ds.length true ++ acks →
      ∃ k d y o', k + 1 = e.len ∧ y.pendingStop = true ∧
        y.trace = x.trace ++ x.header a .W ++ ds.flatMap (fun d => [.DATA_W d, .ACK]) ∧
        runPicks (List.replicate ds.length (writeBytePicks b)).flatten (s.onBus b e x o ag) =
          .next (s.onBus b { e with state := .WAIT_STOP, sub := 0, k := k, byte := d } y o' (.eng b)) := by
  induction ds with
  | nil => exact fun _ _ _ _ _ h => absurd rfl h
  | cons d ds ih =>
    intro e x o ag h _ hlen hctrl habrt hbytes hacks
    obtain ⟨hin, hread⟩ := hbytes 0 d rfl
    have hbyte := runPicks_writeByte (b := b) (ag := ag) h (by rw [List.length_cons] at hlen; omega) hctrl habrt hroom hin hread
      (r := List.replicate ds.length true ++ acks) (by simpa [List.replicate_succ] using hacks)
    rw [List.length_cons, List.replicate_succ, List.flatten_cons, runPicks_append hbyte]
    cases ds with
    | nil =>
      have hlast : e.k + 1 = e.len := hlen
      refine ⟨e.k, d, _, _, hlast, ?_, ?_, by rw [Engine.wrote, if_pos hlast]; rfl⟩
      · simp [Ctl.performed, hlast]
      · simp
    | cons d' ds =>
      have hnext : e.k + 1 ≠ e.len := by simp only [List.length_cons] at hlen; omega
      have hwrote := h.wrote (ev := x.header a .W ++ [.DATA_W d, .ACK]) d hnext
      rw [decide_eq_false hnext]
      rw [Engine.wrote, if_neg hnext] at hwrote ⊢
      obtain ⟨k, d'', y, o', hk, hstop, htrace, hrun⟩ := ih _ _
        { o with acks := List.replicate (d' :: ds).length true ++ acks } (.eng b) hwrote nofun
        (by rw [← hlen, Nat.add_assoc, Nat.add_comm 1]; rfl) (by rwa [Ctl.performed_con]) (by rwa [Ctl.performed_abrtSrc])
        (fun j d hj => by simpa [Nat.add_assoc, Nat.add_comm 1] using hbytes (j + 1) d hj) rfl
      refine ⟨k, d'', y, o', hk, hstop, ?_, hrun⟩
      rw [htrace, Ctl.header_of_open (x := x.performed false .W _) rfl]
      simp

/-! ## The stop (R146, R150) -/

theorem writeStop_seen (hop : e.op = .WRITE) (hst : e.state = .WAIT_STOP) (hsub : e.sub = 0) (hdet : x.stopDet = true) :
    runPick (.eng b) (s.onBus b e x o ag) = .next (s.onBus b { e with state := .CLEAR_STOP, sub := 0 } x o (.eng b)) := by
  rw [runPick_eng_write hop (by rw [hst]; decide)]
  simp [writeCallStep, hst, hsub, hdet]

theorem writeStop_cleared (hop : e.op = .WRITE) (hst : e.state = .CLEAR_STOP) (habort : e.abort = false)
    (hlast : e.k + 1 = e.len) :
    runPick (.eng b) (s.onBus b e x o ag) =
      .next (s.onBus b { e with state := .FINISH, sub := 0 } { x with stopDet := false } o (.eng b)) := by
  rw [runPick_eng_write hop (by rw [hst]; decide)]
  simp [writeCallStep, hst, habort, readClrStopDet, nextByte_eq, Engine.advanced, hlast]

/-- The stop, the engine's two steps after it, and the result. -/
theorem runPicks_writeEnd (hop : e.op = .WRITE) (hst : e.state = .WAIT_STOP) (hsub : e.sub = 0)
    (hns : e.ns = false) (habort : e.abort = false) (hlast : e.k + 1 = e.len) (hpending : x.pendingStop = true) :
    runPicks [.stop b, .eng b, .eng b, .eng b] (s.onBus b e x o ag) = .next (returnResult b .OK 0
      (s.onBus b { e with state := .FINISH, sub := 0, ron := some false }
        { x with trace := x.trace ++ [.STOP], busOpen := false, pendingStop := false, stopDet := false } o (.eng b))) := by
  refine (runPicks_cons (runPick_stop_onBus hpending)).trans ?_
  refine (runPicks_cons (writeStop_seen hop hst hsub rfl)).trans ?_
  refine (runPicks_cons (writeStop_cleared (e := { e with state := .CLEAR_STOP, sub := 0 }) hop rfl habort hlast)).trans ?_
  exact (runPicks_cons (runPick_eng_finish (e := { e with state := .FINISH, sub := 0 }) (.inl ⟨hop, rfl⟩) rfl habort
    hns)).trans (runPicks_nil _)

end Write

/-- Settles O45: the checks and SETUP, then the bytes, then the stop. -/
theorem acknowledgedWriteSendsEveryByte : Obligations.AcknowledgedWriteSendsEveryByte := by
  intro b s ds acks e x hop hst hc ha hlen hne hns hron hwait hroom hmaster hrestart haddr hctrl hopen hpending _ habrt
    hbytes hacks
  have hlen0 : e.len ≠ 0 := by rw [hlen]; exact List.length_eq_zero_iff.not.2 hne
  have hsetup := runPicks_setup (b := b) (first := .ISSUE) (.inl ⟨hop, rfl⟩) hst hc ha hlen0 hopen
  have hbefore := beforeByte_setUp (first := .ISSUE) (rw' := .W) hop hron hns hmaster hrestart haddr hopen hpending
  obtain ⟨hheader, hadd⟩ := Ctl.header_setUp (a := e.addr.setWidth 7) (a8 := e.addr) (rw' := .W) hopen
  obtain ⟨k, d, y, o, hk, hstop, htrace, hrun⟩ := runPicks_writeBytes (b := b) (s := s) (acks := acks) hroom ds _ _ s.oracle
    (.eng b) hbefore hne (by simp [Engine.started, hlen]) hctrl habrt (by simpa [Engine.started] using hbytes)
    (by rw [hacks, hadd]; simp [List.replicate_succ])
  have hend := runPicks_writeEnd (b := b) (o := o) (ag := .eng b) (s := s) (x := y)
    (e := { e.started .WAIT_STOP with k := k, byte := d }) hop rfl rfl hns rfl hk hstop
  obtain ⟨hret, hron', hctl, hframe⟩ := returnResult_onBus (b := b) (o := o) (ag := .eng b) (s := s)
    (x := { y with trace := y.trace ++ [.STOP], busOpen := false, pendingStop := false, stopDet := false })
    (e := { e.started .FINISH with k := k, byte := d, ron := some false }) hwait
  refine ⟨_, ?_, hret, hron', by rw [hctl], ?_, hframe⟩
  · rw [List.append_assoc, runPicks_append hsetup]
    exact (runPicks_append hrun).trans hend
  · rw [hctl, htrace, hheader]
    rfl

end Sys2Proof.Machine
end

section
/-! SUPPORT. A whole READ with its address acknowledged: the bytes stored, one byte's seven picks, all bytes by induction, the
result and the stop: obligation O46. -/

namespace Sys2Proof.Machine

open Sys2Proof.Config

/-! ## Bytes stored in a row (R58) -/

/-- The state after core `c` has written `v` to byte `a` of memory. -/
def State.stored (c : CoreId) (a : Nat) (v : Byte) (s : State) : State :=
  ((s.setMem (s.mem.write a v)
    (⟨a, v, s.mem.read a, c, (s.coreOf c).nWrites + 1, (s.coreOf c).acqView⟩ :: s.writes)).setAhead
      (s.ahead.filter fun w => !w.performedBy c a v (s.coreOf c).acqView)).setCore c
        { s.coreOf c with nWrites := (s.coreOf c).nWrites + 1 }

/-- The state after core `c` has written the bytes `ds` from byte `a` on. -/
def State.storedAll (c : CoreId) : Nat → List Byte → State → State
  | _, [], s => s
  | a, d :: ds, s => storedAll c (a + 1) ds (s.stored c a d)

/-- A step that stores leaves the parameters, the buses, the lock bank and the cores' places in their scripts. -/
structure StoreFrame (s t : State) : Prop where
  params : t.params = s.params
  bus : t.bus = s.bus
  locks : SameLocks s t
  frames : ∀ c, (t.coreOf c).frame = (s.coreOf c).frame

theorem StoreFrame.other {s t : State} (h : StoreFrame s t) (b : BusId) : SameOtherBus b s t := fun b' _ =>
  ⟨by simp only [State.eng, h.bus], by simp only [State.ctl, h.bus]⟩

section Stored

variable {c : CoreId} {s : State}

theorem memWrite_onBus {b : BusId} {e : Engine} {x : Ctl} {o : Oracle} {ag : Agent} {a : Nat} {v : Byte}
    (hin : s.params.inMemory a = true) :
    memWrite c a v (s.onBus b e x o ag) = some ((s.stored c a v).onBus b e x o ag) := memWrite_in hin

theorem State.stored_frame (c : CoreId) (a : Nat) (v : Byte) (s : State) : StoreFrame s (s.stored c a v) := by
  refine ⟨rfl, rfl, ⟨fun _ => rfl, rfl⟩, fun c' => ?_⟩
  by_cases hc : c' = c
  · subst hc
    simp [State.stored]
  · simp [State.stored, State.coreOf_setCore_ne _ _ hc]

theorem State.storedAll_frame (c : CoreId) (ds : List Byte) : ∀ a s, StoreFrame s (State.storedAll c a ds s) := by
  induction ds with
  | nil => exact fun _ _ => ⟨rfl, rfl, ⟨fun _ => rfl, rfl⟩, fun _ => rfl⟩
  | cons d ds ih =>
    intro a s
    have h := State.stored_frame c a d s
    have g := ih (a + 1) (s.stored c a d)
    exact ⟨g.params.trans h.params, g.bus.trans h.bus, h.locks.trans g.locks,
      fun c => (g.frames c).trans (h.frames c)⟩

/-- No byte outside those written changes. -/
theorem State.read_storedAll_outside {x : Nat} (ds : List Byte) :
    ∀ a s, x < a ∨ a + ds.length ≤ x → (State.storedAll c a ds s).mem.read x = s.mem.read x := by
  induction ds with
  | nil => exact fun _ _ _ => rfl
  | cons d ds ih =>
    intro a s h
    rw [List.length_cons] at h
    rw [State.storedAll, ih _ _ (by omega)]
    exact Memory.read_write_ne s.mem d (by omega)

/-- The bytes stand in their order. -/
theorem State.read_storedAll (ds : List Byte) : ∀ a s k d, s.mem.wf = true → ds[k]? = some d →
    (State.storedAll c a ds s).mem.read (a + k) = d := by
  induction ds with
  | nil => exact fun _ _ _ _ _ h => nomatch h
  | cons d0 ds ih =>
    intro a s k d hm hk
    have hm' : (s.stored c a d0).mem.wf = true := Memory.wf_write hm a d0
    cases k with
    | zero =>
      obtain rfl : d0 = d := Option.some.inj hk
      exact (State.read_storedAll_outside ds _ _ (.inl (Nat.lt_add_one a))).trans (Memory.read_write hm a d0)
    | succ k =>
      rw [State.storedAll, Nat.add_comm k, ← Nat.add_assoc]
      exact ih (a + 1) _ k d hm' hk

end Stored

/-! ## One byte of a READ (R158) -/

section Read

variable {b : BusId} {e : Engine} {x : Ctl} {o : Oracle} {ag : Agent} {s : State} {a : BitVec 7}

/-- The picks of one byte of a READ: space, queue, LOAD, PERFORM, receive wait, pop, store. -/
def readBytePicks (b : BusId) : List Pick := [.eng b, .eng b, .load b, .perform b, .eng b, .eng b, .eng b]

theorem readByte_space (hop : e.op = .READ) (hst : e.state = .WAIT_SPACE) (htxq : x.txq = [])
    (hroom : 1 ≤ s.params.TXQ_DEPTH) :
    runPick (.eng b) (s.onBus b e x o ag) = .next (s.onBus b { e with state := .ISSUE, sub := 0 } x o (.eng b)) := by
  rw [runPick_eng_read hop (by rw [hst]; decide), readCallStep_space (by rw [State.eng_onBus, hst])
    (by rw [State.ctl_onBus, htxq]; exact hroom), goto_onBus]

theorem readByte_queue {ron : Bool} (hop : e.op = .READ) (hst : e.state = .ISSUE) (hron : e.ron = some ron)
    (htxq : x.txq = []) (hroom : 1 ≤ s.params.TXQ_DEPTH) :
    runPick (.eng b) (s.onBus b e x o ag) = .next (s.onBus b { e with state := .WAIT_RX, sub := 0 }
      { x with txq := [cmdwOf e.k e.len ron e.ns true 0] } o (.eng b)) := by
  rw [runPick_eng_read hop (by rw [hst]; decide), readCallStep_issue (by rw [State.eng_onBus, hst]),
    issueWord_onBus hron htxq hroom]

theorem readByte_received (hop : e.op = .READ) (hst : e.state = .WAIT_RX) (hsub : e.sub = 0) (hrxq : x.rxq ≠ []) :
    runPick (.eng b) (s.onBus b e x o ag) = .next (s.onBus b { e with state := .POP, sub := 0 } x o (.eng b)) := by
  rw [runPick_eng_read hop (by rw [hst]; decide)]
  simp [readCallStep, hst, hsub, Ctl.rxAvail, List.length_pos_of_ne_nil hrxq]

theorem readByte_pop {d : Byte} {r : List Byte} (hop : e.op = .READ) (hst : e.state = .POP) (hsub : e.sub = 0)
    (hrxq : x.rxq = d :: r) :
    runPick (.eng b) (s.onBus b e x o ag) =
      .next (s.onBus b { e with state := .POP, sub := 1, byte := d } { x with rxq := r } o (.eng b)) := by
  rw [runPick_eng_read hop (by rw [hst]; decide), readCallStep_pop (by rw [State.eng_onBus, hst])
    (by rw [State.eng_onBus, hsub]) (by rw [State.ctl_onBus, hrxq])]
  simp [State.popped]

theorem readByte_store (hop : e.op = .READ) (hst : e.state = .POP) (hsub : e.sub ≠ 0)
    (hin : s.params.inMemory (e.operands.rbuf + e.k) = true) :
    runPick (.eng b) (s.onBus b e x o ag) =
      .next ((s.stored e.requester (e.operands.rbuf + e.k) e.byte).onBus b (e.advanced .WAIT_SPACE) x o (.eng b)) := by
  rw [runPick_eng_read hop (by rw [hst]; decide), readCallStep_store (by rw [State.eng_onBus, hst])
    (by rwa [State.eng_onBus]) (by rw [State.eng_onBus]; exact memWrite_onBus hin), nextByte_eq, State.eng_onBus,
    State.setEng_onBus]

/-- The byte received is taken out of the empty queue it came to. -/
theorem Ctl.performed_popped {d : Byte} {stop : Bool} {ev : List BusEvent} (h : x.rxq = []) :
    { { x with rxq := x.rxq ++ [d] }.performed stop .R ev with rxq := [] } = x.performed stop .R ev := by
  cases stop <;> simp [Ctl.performed, ← h]

/-- One byte of a READ. -/
theorem runPicks_readByte {d : Byte} {r : List Bool} {bytes : List Byte} (h : BeforeByte .READ .WAIT_SPACE a .R e x)
    (hrxq : x.rxq = []) (hroom : 1 ≤ s.params.TXQ_DEPTH) (hroom' : 1 ≤ s.params.RXQ_DEPTH)
    (hin : s.params.inMemory (e.operands.rbuf + e.k) = true) (hacks : o.acks = x.addressAcks ++ r)
    (hbytes : o.bytes = d :: bytes) :
    runPicks (readBytePicks b) (s.onBus b e x o ag) =
      .next ((s.stored e.requester (e.operands.rbuf + e.k) d).onBus b ({ e with byte := d }.advanced .WAIT_SPACE)
        (x.performed (decide (e.k + 1 = e.len)) .R
          (x.header a .R ++ [.DATA_R d, ackEvent (!decide (e.k + 1 = e.len))]))
        { o with acks := r, bytes := bytes } (.eng b)) := by
  obtain ⟨ron, hron⟩ := Option.ne_none_iff_exists'.1 h.ron
  have hready := h.ready
  refine (runPicks_cons (readByte_space h.op h.state hready.txq hroom)).trans ?_
  refine (runPicks_cons (readByte_queue (e := { e with state := .ISSUE, sub := 0 }) h.op rfl hron hready.txq hroom)).trans ?_
  refine (runPicks_cons (runPick_load_onBus hready)).trans ?_
  refine (runPicks_cons (runPick_perform_read hready (by rw [hrxq]; exact hroom') (h.restart ron) hacks hbytes)).trans ?_
  refine (runPicks_cons (readByte_received (e := { e with state := .WAIT_RX, sub := 0 }) h.op rfl rfl
    (by simp))).trans ?_
  refine (runPicks_cons (readByte_pop (e := { e with state := .POP, sub := 0 }) (d := d) (r := []) h.op rfl rfl
    (by simp [hrxq]))).trans ?_
  refine (runPicks_cons (readByte_store (e := { e with state := .POP, sub := 1, byte := d }) h.op rfl one_ne_zero
    hin)).trans ?_
  rw [Ctl.performed_popped hrxq]
  simp [h.ns, Engine.advanced]

/-- After a byte that is not the last the call stands before the next one. -/
theorem BeforeByte.read {ev : List BusEvent} (h : BeforeByte .READ .WAIT_SPACE a .R e x) (d : Byte)
    (hnext : e.k + 1 < e.len) :
    BeforeByte .READ .WAIT_SPACE a .R ({ e with byte := d }.advanced .WAIT_SPACE) (x.performed false .R ev) := by
  rw [Engine.advanced, if_pos hnext]
  exact ⟨h.op, rfl, rfl, h.ron, h.ns, h.abort, h.ready.performed ev, fun _ => Nat.succ_ne_zero _⟩

/-- The bus events of a READ's data, the stop with them (R109): each byte is acknowledged but for the last. -/
def readEvents (ds : List Byte) : List BusEvent :=
  ds.dropLast.flatMap (fun d => [.DATA_R d, .ACK]) ++ (ds.getLast?.map fun d => [.DATA_R d, .NACK, .STOP]).getD []

/-- Every byte of a READ, by induction on the bytes left: each is stored in its place and the bus events come in order, and then
the call is at its end with the stop pending. -/
theorem runPicks_readBytes {acks : List Bool} {bytes : List Byte} (ds : List Byte) :
    ∀ (e : Engine) (x : Ctl) (o : Oracle) (ag : Agent) (s : State), BeforeByte .READ .WAIT_SPACE a .R e x →
      ds ≠ [] → e.k + ds.length = e.len → x.rxq = [] → 1 ≤ s.params.TXQ_DEPTH → 1 ≤ s.params.RXQ_DEPTH →
      (∀ j, j < ds.length → s.params.inMemory (e.operands.rbuf + (e.k + j)) = true) →
      o.acks = x.addressAcks ++ acks → o.bytes = ds ++ bytes →
      ∃ k d y o', y.pendingStop = true ∧ y.trace ++ [.STOP] = x.trace ++ x.header a .R ++ readEvents ds ∧
        runPicks (List.replicate ds.length (readBytePicks b)).flatten (s.onBus b e x o ag) =
          .next ((s.storedAll e.requester (e.operands.rbuf + e.k) ds).onBus b
            { e with state := .FINISH, sub := 0, k := k, byte := d } y o' (.eng b)) := by
  induction ds with
  | nil => exact fun _ _ _ _ _ _ h => absurd rfl h
  | cons d ds ih =>
    intro e x o ag s h _ hlen hrxq hroom hroom' hin hacks hbytes
    have hbyte := runPicks_readByte (b := b) (ag := ag) h hrxq hroom hroom' (hin 0 (Nat.succ_pos _)) hacks hbytes
    rw [List.length_cons, List.replicate_succ, List.flatten_cons, runPicks_append hbyte]
    cases ds with
    | nil =>
      have hlast : e.k + 1 = e.len := hlen
      refine ⟨e.k, d, _, _, ?_, ?_, by rw [Engine.advanced, if_neg (by simp [hlast])]; rfl⟩
      · simp [Ctl.performed, hlast]
      · simp [hlast, readEvents, ackEvent]
    | cons d' ds =>
      have hnext : e.k + 1 < e.len := by simp only [List.length_cons] at hlen; omega
      have hread := h.read (ev := x.header a .R ++ [.DATA_R d, .ACK]) d hnext
      have hframe := State.stored_frame e.requester (e.operands.rbuf + e.k) d s
      rw [decide_eq_false hnext.ne]
      rw [Engine.advanced, if_pos hnext] at hread ⊢
      obtain ⟨k, d'', y, o', hstop, htrace, hrun⟩ := ih _ _ { o with acks := acks, bytes := d' :: ds ++ bytes } (.eng b)
        (s.stored e.requester (e.operands.rbuf + e.k) d) hread nofun (by rw [← hlen, Nat.add_assoc, Nat.add_comm 1]; rfl)
        (by rwa [Ctl.performed_rxq]) (by rwa [hframe.params]) (by rwa [hframe.params])
        (fun j hj => by simpa [hframe.params, Nat.add_assoc, Nat.add_comm 1] using hin (j + 1) (Nat.succ_lt_succ hj)) rfl rfl
      refine ⟨k, d'', y, o', hstop, ?_, hrun⟩
      rw [htrace, Ctl.header_of_open (x := x.performed false .R _) rfl]
      simp [readEvents]

/-- The result, and the stop after it. -/
theorem runPicks_readEnd (hop : e.op = .READ) (hst : e.state = .FINISH) (hns : e.ns = false) (habort : e.abort = false)
    (hpending : x.pendingStop = true) :
    runPicks [.eng b, .stop b] (s.onBus b e x o ag) = .next (((returnResult b .OK 0
      (s.onBus b { e with ron := some false } x o (.eng b))).setCur (.ctl b)).setCtl b
        { x with trace := x.trace ++ [.STOP], busOpen := false, pendingStop := false, stopDet := true }) := by
  refine (runPicks_cons (runPick_eng_finish (.inr ⟨hop, rfl⟩) hst habort hns)).trans ?_
  have hctl : ((returnResult b .OK 0 (s.onBus b { e with ron := some false } x o (.eng b))).setCur (.ctl b)).ctl b = x :=
    (returnResult_spec b .OK 0 (s.onBus b { e with ron := some false } x o (.eng b))).2.1.trans State.ctl_onBus
  have hstop := ctlStop_pending (by rw [hctl]; exact hpending)
  rw [hctl] at hstop
  exact (runPicks_cons (p := .stop b) hstop).trans (runPicks_nil _)

end Read

/-- Settles O46: the checks and SETUP, then the bytes, then the result and the stop. -/
theorem acknowledgedReadStoresEveryByte : Obligations.AcknowledgedReadStoresEveryByte := by
  intro b s ds bytes acks e x hop hst hc ha hlen hne hns hron hwait hroom hroom' hm hmaster hrestart haddr hopen hpending
    hin hacks hbytes
  have hlen0 : e.len ≠ 0 := by rw [hlen]; exact List.length_eq_zero_iff.not.2 hne
  have hsetup := runPicks_setup (b := b) (first := .WAIT_SPACE) (.inr ⟨hop, rfl⟩) hst hc ha hlen0 hopen
  have hbefore := beforeByte_setUp (first := .WAIT_SPACE) (rw' := .R) hop hron hns hmaster hrestart haddr hopen hpending
  obtain ⟨hheader, hadd⟩ := Ctl.header_setUp (a := e.addr.setWidth 7) (a8 := e.addr) (rw' := .R) hopen
  obtain ⟨k, d, y, o, hstop, htrace, hrun⟩ := runPicks_readBytes (b := b) (acks := acks) (bytes := bytes) ds _ _ s.oracle
    (.eng b) s hbefore hne (by simp [Engine.started, hlen]) rfl hroom hroom' (by simpa [Engine.started] using hin)
    (by rw [hacks, hadd]; rfl) hbytes
  let u := s.storedAll e.requester (e.operands.rbuf + 0) ds
  have hu : StoreFrame s u := State.storedAll_frame ..
  have hend := runPicks_readEnd (b := b) (o := o) (ag := .eng b) (s := u) (x := y)
    (e := { e.started .FINISH with k := k, byte := d }) hop rfl hns rfl hstop
  obtain ⟨hret, hron', hctl, hother, hlocks, hmem⟩ := returnResult_onBus (b := b) (o := o) (ag := .eng b) (s := u)
    (x := y) (e := { e.started .FINISH with k := k, byte := d, ron := some false }) ((congrArg _ (hu.frames _)).trans hwait)
  let v := returnResult b .OK 0
    (u.onBus b { e.started .FINISH with k := k, byte := d, ron := some false } y o (.eng b))
  have hlast := CtlBecomes.setCtl b v (.ctl b)
    { y with trace := y.trace ++ [.STOP], busOpen := false, pendingStop := false, stopDet := true }
  refine ⟨_, (runPicks_append ?_).trans hend, ?_, ?_, fun j d' hj => ?_, fun x hx => ?_, ?_,
    ((hu.other b).trans hother).trans hlast.other, (hu.locks.trans hlocks).trans hlast.locks⟩
  · exact (runPicks_append hsetup).trans hrun
  · rw [Returned, hlast.eng, hlast.cores]
    exact hret
  · rw [hlast.eng]
    exact hron'
  · rw [hlast.memory.1, hmem.1]
    exact State.read_storedAll ds _ s j d' hm hj
  · rw [hlast.memory.1, hmem.1]
    exact State.read_storedAll_outside ds _ s hx
  · rw [hlast.ctl, htrace, hheader, readEvents, List.append_assoc _ _ (Option.getD _ _)]
    rfl

end Sys2Proof.Machine
end

section
/-! SUPPORT. The lock bank's two accesses, and SPIN_ACQ and SPIN_REL step by step and run to their ends: obligations O7 to
O14. -/

namespace Sys2Proof.Machine

/-! ## What an access of one core to one lock leaves -/

/-- From `s` to `t` nothing but lock `n` and core `c` has changed. -/
structure OnlyLockAndCore (n : LockId) (c : CoreId) (s t : State) : Prop where
  locks : ∀ n', n' ≠ n → t.lock n' = s.lock n'
  port : t.lkaQ = s.lkaQ
  rest : OnlyCoresAndLocks s t
  other : SameOtherCore c s t

theorem onlyLockAndCore_setLock_setCore (n : LockId) (l : LockReg) (c : CoreId) (k : Core) (s : State) :
    OnlyLockAndCore n c s ((s.setLock n l).setCore c k) where
  locks _ hn := (State.lock_setCore ..).trans (State.lock_setLock_ne s l hn)
  port := rfl
  rest := ⟨fun _ => ⟨rfl, rfl⟩, ⟨fun _ => rfl, rfl⟩, rfl, rfl, rfl, rfl⟩
  other _ hc := State.coreOf_setCore_ne _ k hc

theorem onlyLockAndCore_setCore (n : LockId) (c : CoreId) (k : Core) (s : State) :
    OnlyLockAndCore n c s (s.setCore c k) := by
  simpa using onlyLockAndCore_setLock_setCore n (s.lock n) c k s

/-! ## The bank's accesses (R80, R110, R111) -/

/-- R80: the word of a test-and-set read is the lock's number. -/
theorem decode_lockTas (n : LockId) : decode .lockBank (BitVec.ofNat 32 n.val) = .ok (.lockTas n) := by
  revert n; decide

/-- R80: the word of a release write has bit 5 set over the lock's number. -/
theorem decode_lockClr (n : LockId) : decode .lockBank (BitVec.ofNat 32 (0x20 + n.val)) = .ok (.lockClr n) := by
  revert n; decide

section Bank

variable {s : State} {c : CoreId} {n : LockId}

theorem exec_lockTas_free (hcur : s.cur = .bank c) (hfree : (s.lock n).claimed = false) :
    exec (.lockTas n) s = .next ((s.setLock n { s.lock n with claimed := true }).setCore c
      { s.coreOf c with
        lkaVal := (1 : Word) <<< n.val, pendView := (s.coreOf c).pendView.join (s.lock n).view }) := by
  simp [exec, execLockTas, hcur, Agent.issuer, lockTAS_free hfree]

theorem exec_lockTas_claimed (hcur : s.cur = .bank c) (hl : (s.lock n).claimed = true) :
    exec (.lockTas n) s = .next (s.setCore c { s.coreOf c with lkaVal := 0 }) := by
  simp [exec, execLockTas, hcur, Agent.issuer, lockTAS_claimed hl]

theorem exec_lockClr (hcur : s.cur = .bank c) : exec (.lockClr n) s = .next (lockClr c n s) := by
  simp only [exec, execLockClr, hcur, Agent.issuer]

@[simp] theorem lockClr_claimed (c : CoreId) (n : LockId) (s : State) : ((lockClr c n s).lock n).claimed = false := by
  simp [lockClr]

theorem onlyLockAndCore_lockClr (c : CoreId) (n : LockId) (s : State) : OnlyLockAndCore n c s (lockClr c n s) := by
  rw [lockClr, ← State.setCore_coreOf (s.setLock n _) c]
  exact onlyLockAndCore_setLock_setCore ..

end Bank

/-- Settles O7, by whether the lock is claimed. -/
theorem lockTasReadsAndClaims : Obligations.LockTasReadsAndClaims := by
  refine ⟨decode_lockTas, fun n c s hcur => ?_⟩
  cases hl : (s.lock n).claimed with
  | false =>
    obtain ⟨hlocks, hport, hrest, hother⟩ := onlyLockAndCore_setLock_setCore n { s.lock n with claimed := true } c
      { s.coreOf c with
        lkaVal := (1 : Word) <<< n.val, pendView := (s.coreOf c).pendView.join (s.lock n).view } s
    refine ⟨_, exec_lockTas_free hcur hl, by simp, fun _ => ?_, nofun, hlocks, hport, hrest, hother, by simp⟩
    exact ⟨by simp, by simpa using one_shiftLeft_ne_zero n⟩
  | true =>
    obtain ⟨hlocks, hport, hrest, hother⟩ := onlyLockAndCore_setCore n c { s.coreOf c with lkaVal := 0 } s
    exact ⟨_, exec_lockTas_claimed hcur hl, by simpa using hl, nofun, fun _ => by simp, hlocks, hport, hrest, hother,
      by simp⟩

/-- Settles O8: the clear asks neither whether the lock is claimed nor by whom. -/
theorem lockClrFrees : Obligations.LockClrFrees := by
  refine ⟨decode_lockClr, fun n c s hcur => ?_⟩
  obtain ⟨hlocks, hport, hrest, -⟩ := onlyLockAndCore_lockClr c n s
  exact ⟨_, exec_lockClr hcur, lockClr_claimed c n s, hlocks, hport, hrest, fun _ => rfl⟩

/-! ## The checks of SPIN_ACQ and SPIN_REL (R115 to R118) -/

section Spin

variable {s : State} {c : CoreId} {n : LockId} {saved : Bool} {id : Nat}

theorem exec_spinAcq_outside (h : AtCore c s) (hid : NUM_SPINLOCKS ≤ id) :
    exec (.spinAcq id) s = .fault (.SpinlockIdOutOfRange (.core c) c id) := by
  obtain ⟨hcur, hp⟩ := h
  simp only [exec, execSpinAcq, hcur, Agent.issuer, hp, dif_neg hid.not_gt, fatal]

theorem exec_spinRel_outside (h : AtCore c s) (hid : NUM_SPINLOCKS ≤ id) :
    exec (.spinRel id) s = .fault (.SpinlockIdOutOfRange (.core c) c id) := by
  obtain ⟨hcur, hp⟩ := h
  simp only [exec, execSpinRel, hcur, Agent.issuer, hp, if_pos hid, fatal]

/-- The check of R117 for a lock of the bank: is it among the guards? -/
theorem any_guard_iff {held : List Guard} :
    (held.any fun g => decide (g.id.val = n.val)) = true ↔ ∃ g ∈ held, g.id = n := by
  simp [Fin.ext_iff]

theorem exec_spinAcq_held (h : AtCore c s) (hheld : ∃ g ∈ (s.coreOf c).held, g.id = n) :
    exec (.spinAcq n.val) s = .fault (.SelfDeadlock (.core c) c n.val) := by
  obtain ⟨hcur, hp⟩ := h
  simp only [exec, execSpinAcq, hcur, Agent.issuer, hp, dif_pos n.isLt, if_pos (any_guard_iff.2 hheld), fatal]

/-- R116: the first step of SPIN_ACQ masks interrupts, and keeps the enable it found for the guard. -/
theorem execSpinAcq_mask (h : AtCore c s) (hheld : ∀ g ∈ (s.coreOf c).held, g.id ≠ n) :
    exec (.spinAcq n.val) s = .next (s.setCore c { s.coreOf c with
      ie := false, frame := { (s.coreOf c).frame with phase := .acqTas n (s.coreOf c).ie } }) := by
  obtain ⟨hcur, hp⟩ := h
  have hnone : ¬ ((s.coreOf c).held.any fun g => decide (g.id.val = n.val)) = true := fun hany => by
    obtain ⟨g, hg, hid⟩ := any_guard_iff.1 hany
    exact hheld g hg hid
  simp only [exec, execSpinAcq, hcur, Agent.issuer, hp, dif_pos n.isLt, if_neg hnone, setPhase_eq, State.coreOf_setCore,
    State.setCore_setCore]

/-- R117: the test-and-set of a claimed lock is no step. -/
theorem execSpinAcq_spins (hcur : s.cur = .core c) (hp : (s.coreOf c).frame.phase = .acqTas n saved)
    (hl : (s.lock n).claimed = true) : exec (.spinAcq id) s = .next s := by
  simp [exec, execSpinAcq, hcur, Agent.issuer, hp, lockTAS_claimed hl, noStep]

/-- R116: the last step of SPIN_ACQ pushes the guard. -/
theorem execSpinAcq_push (hcur : s.cur = .core c) (hp : (s.coreOf c).frame.phase = .acqPush n saved) :
    exec (.spinAcq id) s =
      .next (nextLine c (s.setCore c { s.coreOf c with held := ⟨n, saved⟩ :: (s.coreOf c).held })) := by
  simp only [exec, execSpinAcq, hcur, Agent.issuer, hp]

theorem exec_spinRel_mismatch (h : AtCore c s) (htop : ∀ g, (s.coreOf c).held.head? = some g → g.id ≠ n) :
    exec (.spinRel n.val) s = .fault (.GuardMismatch (.core c) c n.val (s.coreOf c).held.head?) := by
  obtain ⟨hcur, hp⟩ := h
  simp only [exec, execSpinRel, hcur, Agent.issuer, hp, if_neg n.isLt.not_ge]
  cases hheld : (s.coreOf c).held with
  | nil => rfl
  | cons g rest =>
    have hne : g.id.val ≠ n.val := fun he => htop g (by rw [hheld]; rfl) (Fin.ext he)
    simp only [if_neg hne, fatal, List.head?_cons]

/-- R118: the first step of SPIN_REL pops the guard. -/
theorem execSpinRel_pop {rest : List Guard} (h : AtCore c s) (hheld : (s.coreOf c).held = ⟨n, saved⟩ :: rest) :
    exec (.spinRel n.val) s = .next (s.setCore c { s.coreOf c with
      held := rest, frame := { (s.coreOf c).frame with phase := .relFence n saved } }) := by
  obtain ⟨hcur, hp⟩ := h
  simp only [exec, execSpinRel, hcur, Agent.issuer, hp, if_neg n.isLt.not_ge, hheld, if_true, setPhase_eq,
    State.coreOf_setCore, State.setCore_setCore]

/-- R118: the last step of SPIN_REL restores the interrupt enable. -/
theorem execSpinRel_restore (hcur : s.cur = .core c) (hp : (s.coreOf c).frame.phase = .relIE saved) :
    exec (.spinRel id) s = .next (nextLine c (s.setCore c { s.coreOf c with ie := saved })) := by
  simp only [exec, execSpinRel, hcur, Agent.issuer, hp]

/-! ## SPIN_ACQ and SPIN_REL run to their ends -/

theorem phase_setPhase (c : CoreId) (p : CorePhase) (s : State) : ((setPhase c p s).coreOf c).frame.phase = p := by
  rw [setPhase_eq, State.coreOf_setCore]

/-- Core `k` after its SPIN_ACQ of lock `n`, whose register was `l`: interrupts masked, the guard on top, at the next line, and
ordered after what the lock's clears have published (R116, R64). -/
def Core.acquired (n : LockId) (l : LockReg) (k : Core) : Core :=
  { k with
    ie := false, held := ⟨n, k.ie⟩ :: k.held, frame := { k.frame with pc := k.frame.pc + 1, phase := .ready },
    pendView := k.pendView.join l.view, acqView := k.acqView.join (k.pendView.join l.view) }

/-- R116: mask, claim, fence, guard. -/
theorem execTimes_spinAcq (h : AtCore c s) (hfree : (s.lock n).claimed = false)
    (hheld : ∀ g ∈ (s.coreOf c).held, g.id ≠ n) :
    execTimes (.spinAcq n.val) 4 s = .next ((s.setLock n { s.lock n with claimed := true }).setCore c
      ((s.coreOf c).acquired n (s.lock n))) := by
  have hcur : s.cur = .core c := h.1
  rw [execTimes_succ (execSpinAcq_mask h hheld),
    execTimes_succ (execSpinAcq_claim (by exact hcur) (by rw [State.coreOf_setCore]) (by exact hfree)),
    lockTAS_free (by exact hfree),
    execTimes_succ (execSpinAcq_fence (by exact hcur) (phase_setPhase ..)),
    execTimes_succ (execSpinAcq_push (by exact hcur) (phase_setPhase ..))]
  simp [nextLine_eq, setPhase_eq, fenceAcq, Core.acquired]

/-- Core `k` after its SPIN_REL of its top guard, which had kept `saved`: the guards `rest` left, interrupts as the acquire found
them, at the next line, with `v` ordered before its next clears (R118, R63). -/
def Core.released (saved : Bool) (rest : List Guard) (v : View) (k : Core) : Core :=
  { k with
    ie := saved, held := rest, frame := { k.frame with pc := k.frame.pc + 1, phase := .ready }, relView := v }

/-- R118: pop, fence, clear, restore. -/
theorem execTimes_spinRel {rest : List Guard} (h : AtCore c s) (hheld : (s.coreOf c).held = ⟨n, saved⟩ :: rest) :
    execTimes (.spinRel n.val) 4 s = .next ((s.setLock n ((lockClr c n (fenceRel c s)).lock n)).setCore c
      ((s.coreOf c).released saved rest ((fenceRel c s).coreOf c).relView)) := by
  have hcur : s.cur = .core c := h.1
  rw [execTimes_succ (execSpinRel_pop h hheld),
    execTimes_succ (execSpinRel_fence (by exact hcur) (by rw [State.coreOf_setCore])),
    execTimes_succ (execSpinRel_clear (by exact hcur) (phase_setPhase ..)),
    execTimes_succ (execSpinRel_restore (by exact hcur) (phase_setPhase ..))]
  simp [nextLine_eq, setPhase_eq, fenceRel, lockClr, Core.released]

end Spin

/-- Settles O11: both check the id before anything else. -/
theorem lockIdOutsideTheBankIsFatal : Obligations.LockIdOutsideTheBankIsFatal :=
  fun _ _ _ h hid => ⟨exec_spinAcq_outside h hid, exec_spinRel_outside h hid⟩

/-- Settles O12: the acquire looks at every guard, the release at the top one. -/
theorem lockMisuseIsFatal : Obligations.LockMisuseIsFatal :=
  ⟨fun _ _ _ h hheld => exec_spinAcq_held h hheld, fun _ _ _ h htop => exec_spinRel_mismatch h htop⟩

/-- Settles O10: the masking step writes the core alone, and a spin writes nothing. -/
theorem spinAcqMasksAndSpins : Obligations.SpinAcqMasksAndSpins := by
  refine ⟨fun n c s h hheld => ?_, fun _ _ _ _ _ hcur hp hl => execSpinAcq_spins hcur hp hl⟩
  have hframe := fun k => onlyLockAndCore_setCore n c k s
  exact ⟨_, execSpinAcq_mask h hheld, by simp, by simp, ⟨fun _ => rfl, rfl⟩, (hframe _).rest, (hframe _).other, by simp⟩

/-- Settles O9: the four steps write the lock's register and the core. -/
theorem spinAcqTakesAFreeLock : Obligations.SpinAcqTakesAFreeLock := by
  intro n c s h hfree hheld
  obtain ⟨hlocks, hport, hrest, hother⟩ := onlyLockAndCore_setLock_setCore n { s.lock n with claimed := true } c
    ((s.coreOf c).acquired n (s.lock n)) s
  exact ⟨_, execTimes_spinAcq h hfree hheld, by simp [Core.acquired], by simp, by simp [Core.acquired],
    by simp [Core.acquired], hlocks, hport, hrest, hother, by simp [Core.acquired]⟩

/-- Settles O13: the first step writes the core alone, the four the lock's register too. -/
theorem spinRelFreesTheTopGuard : Obligations.SpinRelFreesTheTopGuard := by
  intro n saved rest c s h hheld
  refine ⟨⟨_, execSpinRel_pop h hheld, by simp, by simp, by simp, ⟨fun _ => rfl, rfl⟩⟩, ?_⟩
  obtain ⟨hlocks, hport, hrest, hother⟩ := onlyLockAndCore_setLock_setCore n ((lockClr c n (fenceRel c s)).lock n) c
    ((s.coreOf c).released saved rest ((fenceRel c s).coreOf c).relView) s
  exact ⟨_, execTimes_spinRel h hheld, by simp, by simp [Core.released], by simp [Core.released],
    by simp [Core.released], hlocks, hport, hrest, hother, by simp [Core.released]⟩

/-- Settles O14: after the acquire the core stands between two lines with the guard on top, as the release asks. -/
theorem acquireThenReleaseRestores : Obligations.AcquireThenReleaseRestores := by
  intro n c s h hfree hheld
  obtain ⟨t, hacq, hie, -, hheld', hframe, hlocks, -, hrest, -, -⟩ := spinAcqTakesAFreeLock n c s h hfree hheld
  obtain ⟨-, -, -, -, -, hcur⟩ := hrest
  have hat : AtCore c t := ⟨hcur.trans h.1, by rw [hframe]⟩
  obtain ⟨-, u, hrel, hfree', hie', hheld'', -, hlocks', -⟩ := spinRelFreesTheTopGuard n _ _ c t hat hheld'
  refine ⟨t, u, hacq, hrel, hie, hie', hheld'', fun n' => ?_⟩
  by_cases hn : n' = n
  · rw [hn, hfree', hfree]
  · rw [hlocks' n' hn, hlocks n' hn]

end Sys2Proof.Machine
end

section
/-! SUPPORT. SETBAUD run to its end (R132), the frequencies it accepts (R135) and their counts (R138): obligations O20, O21 and
O23. -/

namespace Sys2Proof.Machine

open Sys2Proof.Config

/-! ## The accepted frequencies -/

/-- R138: with an accepted high phase, the low phase is not the shorter one. -/
theorem baudHcnt_le_baudLcnt {f : Nat} (h : 8 ≤ baudHcnt f) : baudHcnt f ≤ baudLcnt f := by
  unfold baudHcnt baudLcnt at *
  omega

/-- Settles O23: the five bounds are the checks themselves. -/
theorem acceptedCountsAreInRange : Obligations.AcceptedCountsAreInRange := by
  intro f hf
  obtain ⟨-, hl, hl', hh, hh', hhold⟩ := (badBaud_eq_false f).1 hf
  exact ⟨hl, hl', hh, hh', hhold, baudHcnt_add_baudLcnt f, baudHcnt_le_baudLcnt hh, Nat.le_max_left ..⟩

theorem baudHold_eq (f : Nat) : baudHold f = if f < 1000000 then 38 else 16 := by
  unfold baudHold holdNs HOLD_FREQ_THRESHOLD
  split <;> rfl

/-- R135: a period of 109227 has too long a low phase, one below 30 no room for the short hold, and below 1 MHz, where the hold is
the long one, the period is at least 125. -/
theorem badBaud_eq_false_iff_range (f : Nat) : badBaud f = false ↔ 1145 ≤ f ∧ f ≤ 4237288 := by
  rw [badBaud_eq_false, baudHold_eq]
  rcases Nat.eq_zero_or_pos f with rfl | hpos
  · simp
  have hlong := le_baudPeriod 109227 hpos
  have hshort := le_baudPeriod 30 hpos
  have hslow := le_baudPeriod 125 hpos
  unfold baudHcnt baudLcnt
  split <;> omega

/-- R130: a spike length is let through by the parameter, or since it fits. -/
theorem spkRefused_eq_false {p : Params} {f : Nat} (h : p.SPKLEN_OVERFLOW = .truncate ∨ baudSpk f < 256) :
    spkRefused p f = false := by
  rcases h with h | h
  · simp [spkRefused, h]
  · have hfits : ¬ 2 ^ SPKLEN_WIDTH ≤ baudSpk f := Nat.not_le.2 h
    simp [spkRefused, hfits]

/-! ## The register writes -/

/-- The register writes of statements 0 to `n - 1` of R132. -/
def baudWrites (b : BusId) : Nat → State → State
  | 0, s => s
  | n + 1, s => baudWrite b n (baudWrites b n s)

/-- R215: a write to an enabled controller's `CON` leaves it as it is. -/
theorem writeConSpeed_eq (b : BusId) (v : BitVec 2) (s : State) : writeConSpeed b v s = s.setCtl b
    (if (s.ctl b).en = some true then s.ctl b else { s.ctl b with con := { (s.ctl b).con with speed := some v } }) := by
  unfold writeConSpeed
  dsimp only
  split
  · exact (State.setCtl_ctl s b).symm
  · rfl

/-- A register write of R132 writes its controller alone. -/
theorem baudWrite_eq_setCtl (b : BusId) (j : Nat) (s : State) : ∃ x, baudWrite b j s = s.setCtl b x := by
  simp only [baudWrite, writeConSpeed_eq]
  split
  · exact ⟨_, (State.setCtl_ctl s b).symm⟩
  · split <;> exact ⟨_, rfl⟩

theorem baudWrites_eq_setCtl (b : BusId) (n : Nat) (s : State) : ∃ x, baudWrites b n s = s.setCtl b x := by
  induction n with
  | zero => exact ⟨_, (State.setCtl_ctl s b).symm⟩
  | succ n ih =>
    obtain ⟨x, hx⟩ := ih
    obtain ⟨y, hy⟩ := baudWrite_eq_setCtl b n (s.setCtl b x)
    exact ⟨y, by rw [baudWrites, hx, hy, State.setCtl_setCtl]⟩

theorem cur_baudWrites (b : BusId) (n : Nat) (s : State) : (baudWrites b n s).cur = s.cur := by
  obtain ⟨x, hx⟩ := baudWrites_eq_setCtl b n s
  rw [hx, State.cur_setCtl]

/-- A register write does not see where the engine stands. -/
theorem baudWrite_goto (b : BusId) (j : Nat) (st : EngState) (sub : Nat) (s : State) :
    baudWrite b j (goto b st sub s) = goto b st sub (baudWrite b j s) := by
  simp only [baudWrite, goto_eq, State.eng_setEng]
  split
  · rfl
  · split <;> simp [disable_eq, enable_eq, writeFsHcnt, writeFsLcnt, writeFsSpklen, writeTxHold, writeConSpeed_eq]

/-- The controller `x` with the timing of frequency `f`: disabled, programmed, enabled again (R132). -/
def Ctl.timed (p : Params) (f : Nat) (x : Ctl) : Ctl :=
  { x.disabled p with
    fsHcnt := some (BitVec.ofNat 16 (baudHcnt f))
    fsLcnt := some (BitVec.ofNat 16 (baudLcnt f))
    fsSpklen := some (BitVec.ofNat 8 (baudSpk f % 2 ^ SPKLEN_WIDTH))
    txHold := some (BitVec.ofNat HOLD_WIDTH (baudHold f))
    con := { x.con with speed := some SPEED_FAST }
    en := some true }

/-- R132, R215: all seven writes take effect, `CON.SPEED` since the first has disabled the controller. -/
theorem baudWrites_seven {b : BusId} {s : State} (hf : badBaud (s.eng b).operands.freq.toNat = false) :
    baudWrites b 7 s = s.setCtl b ((s.ctl b).timed s.params (s.eng b).operands.freq.toNat) := by
  simp [baudWrites, baudWrite, hf, disable_eq, enable_eq, writeFsHcnt, writeFsLcnt, writeFsSpklen, writeTxHold,
    writeConSpeed_eq, Ctl.timed, Ctl.disabled]

/-! ## SETBAUD run to its end -/

section Setbaud

variable {b : BusId} {s t u : State}

theorem execTimes_snoc {i : Instr} {n : Nat} (h : execTimes i n s = .next t) (g : exec i t = .next u) :
    execTimes i (n + 1) s = .next u := by
  induction n generalizing s with
  | zero => cases h; exact execTimes_succ g
  | succ n ih =>
    rw [execTimes] at h ⊢
    cases hs : exec i s with
    | next v => simp only [hs] at h ⊢; exact ih h
    | fault e => simp [hs] at h
    | refused e => simp [hs] at h

theorem exec_setbaud_program (hcur : s.cur = .eng b) (n : Nat) : exec (.setbaud b) (goto b .PROGRAM n s) = .next
    (if n < 6 then goto b .PROGRAM (n + 1) (baudWrite b n s) else goto b .FINISH 0 (baudWrite b 6 s)) := by
  rw [exec_setbaud_eng (by exact hcur)]
  simp only [setbaudStep, baudWrite_goto]
  simp only [goto_eq, State.eng_setEng, State.setEng_setEng]
  split <;> rfl

theorem exec_setbaud_finish (hcur : s.cur = .eng b) (n : Nat) :
    exec (.setbaud b) (goto b .FINISH n s) = .next (returnResult b .OK 0 s) := by
  rw [exec_setbaud_eng (by exact hcur)]
  simp [setbaudStep, goto_eq, returnResult_eq]

theorem exec_setbaud_idle (hcur : s.cur = .eng b) (h : (s.eng b).state = .IDLE) : exec (.setbaud b) s = .next s := by
  rw [exec_setbaud_eng hcur]
  simp only [setbaudStep, h, noStep]

/-- R132: PROGRAM's first six steps are the first six writes. -/
theorem execTimes_setbaud_program (hcur : s.cur = .eng b) {n : Nat} (hn : n ≤ 6) :
    execTimes (.setbaud b) n (goto b .PROGRAM 0 s) = .next (goto b .PROGRAM n (baudWrites b n s)) := by
  induction n with
  | zero => rfl
  | succ n ih =>
    have hstep := exec_setbaud_program ((cur_baudWrites b n s).trans hcur) n
    rw [if_pos (by omega)] at hstep
    exact execTimes_snoc (ih (by omega)) hstep

/-- R132: an accepted frequency passes CHECK, the seven writes are made, and FINISH returns. -/
theorem execTimes_setbaud_accepted (h : AtEng b .CHECK 0 s) (hc : (s.eng b).configured = true)
    (hgood : badBaud (s.eng b).operands.freq.toNat = false)
    (hfits : spkRefused s.params (s.eng b).operands.freq.toNat = false) :
    execTimes (.setbaud b) 9 s =
      .next (returnResult b .OK 0 (s.setCtl b ((s.ctl b).timed s.params (s.eng b).operands.freq.toNat))) := by
  obtain ⟨hcur, hst, -⟩ := h
  have hcheck : exec (.setbaud b) s = .next (goto b .PROGRAM 0 s) := by
    simp [exec_setbaud_eng hcur, setbaudStep_check hst, hc, baudCheck, hgood, hfits]
  have hlast := exec_setbaud_program ((cur_baudWrites b 6 s).trans hcur) 6
  rw [if_neg (by decide), ← baudWrites, baudWrites_seven hgood] at hlast
  rw [execTimes_succ hcheck]
  have hwrites := execTimes_snoc (execTimes_setbaud_program hcur le_rfl) hlast
  exact execTimes_snoc hwrites (exec_setbaud_finish (by exact hcur) 0)

/-- R132, R133: a refused frequency returns from CHECK, and the engine, `IDLE` again, does nothing more. -/
theorem execTimes_setbaud_refused (h : AtEng b .CHECK 0 s) (hc : (s.eng b).configured = true)
    (hbad : badBaud (s.eng b).operands.freq.toNat = true) (n : Nat) :
    execTimes (.setbaud b) (n + 1) s = .next (returnResult b .InvalidBaudrate 0 s) := by
  obtain ⟨hcur, hst, -⟩ := h
  have hcheck : exec (.setbaud b) s = .next (returnResult b .InvalidBaudrate 0 s) := by
    simp [exec_setbaud_eng hcur, setbaudStep_check hst, hc, baudCheck, hbad]
  have hidle : ((returnResult b .InvalidBaudrate 0 s).eng b).state = .IDLE := by simp [returnResult_eq]
  rw [execTimes_succ hcheck]
  induction n with
  | zero => rfl
  | succ n ih => rwa [execTimes_succ (exec_setbaud_idle (by exact hcur) hidle)]

end Setbaud

/-- Settles O20: CHECK decides, and it accepts the range. -/
theorem setbaudAcceptsExactlyItsRange : Obligations.SetbaudAcceptsExactlyItsRange := by
  refine ⟨fun b s h hc htrunc => ?_, by decide⟩
  simp only [← badBaud_eq_false_iff_range]
  cases hf : badBaud (s.eng b).operands.freq.toNat with
  | false =>
    exact ⟨_, execTimes_setbaud_accepted h hc hf (spkRefused_eq_false (.inl htrunc)), by simp [returnResult_eq],
      by simp [returnResult_eq]⟩
  | true => exact ⟨_, execTimes_setbaud_refused h hc hf 8, by simp [returnResult_eq], by simp [returnResult_eq]⟩

/-- Settles O21: the numbers given are the model's, and they meet the checks. -/
theorem setbaudProgramsTheTiming : Obligations.SetbaudProgramsTheTiming := by
  rintro b s f period lcnt hcnt hold spk h hc hwait rfl hf rfl rfl rfl hl hl' hh hh' rfl hhold rfl hspk
  have hgood : badBaud (s.eng b).operands.freq.toNat = false := (badBaud_eq_false _).2 ⟨hf, hl, hl', hh, hh', hhold⟩
  have hspec := returnResult_spec b .OK 0 (s.setCtl b ((s.ctl b).timed s.params (s.eng b).operands.freq.toNat))
  rw [State.eng_setCtl, State.ctl_setCtl] at hspec
  obtain ⟨heng, hctl, honly, hother, hframes, -, hret⟩ := hspec
  have hwait' : Waiting b (s.setCtl b ((s.ctl b).timed s.params (s.eng b).operands.freq.toNat)) := by
    simpa [Waiting] using hwait
  exact ⟨_, execTimes_setbaud_accepted h hc hgood (spkRefused_eq_false hspk), hctl, heng, hret hwait',
    ((OnlyBus.refl b s).setCtl _).trans honly, hother, hframes⟩

end Sys2Proof.Machine
end

section
/-! SUPPORT. The states a WRITE and a READ share and the waits they poll in, run to their end with everything they leave:
obligations O31, O32, O36, O37, O38 and O40. -/

namespace Sys2Proof.Machine

open Sys2Proof.Config

section Calls

variable {b : BusId} {ns : Bool} {a : BitVec ADDR_WIDTH} {i : Instr} {s : State}

/-! ## The states shared by the two calls -/

theorem exec_call_check {sub : Nat} (hi : i = .write b ns a ∨ i = .read b ns a) (h : AtEng b .CHECK sub s) :
    exec i s = entryChecks b s := by
  obtain ⟨hcur, hst, -⟩ := h
  rcases hi with rfl | rfl
  · simp [exec_write_eng hcur, writeCallStep, hst]
  · simp [exec_read_eng hcur, readCallStep, hst]

theorem exec_call_setup {first : EngState} {sub : Nat}
    (hi : i = .write b ns a ∧ first = .ISSUE ∨ i = .read b ns a ∧ first = .WAIT_SPACE) (h : AtEng b .SETUP sub s) :
    exec i s = .next (setupStep b first s) := by
  obtain ⟨hcur, hst, -⟩ := h
  rcases hi with ⟨rfl, rfl⟩ | ⟨rfl, rfl⟩
  · simp [exec_write_eng hcur, writeCallStep, hst]
  · simp [exec_read_eng hcur, readCallStep, hst]

theorem exec_call_finish {sub : Nat} (hi : i = .write b ns a ∨ i = .read b ns a) (h : AtEng b .FINISH sub s) :
    exec i s = .next (finishCall b s) := by
  obtain ⟨hcur, hst, -⟩ := h
  rcases hi with rfl | rfl
  · simp [exec_write_eng hcur, writeCallStep, hst]
  · simp [exec_read_eng hcur, readCallStep, hst]

/-! ## How a call ends (R166, R174) -/

/-- A call ends its request, but where a TRANSFER's write phase is OK. -/
theorem callReturn_eq_returnResult {r : Result × Nat} (h : (s.eng b).op ≠ .TRANSFER ∨ r.1 ≠ .OK) :
    callReturn b r s = returnResult b r.1 r.2 s := by
  refine if_neg ?_
  rintro ⟨hop, -, hok, -⟩
  exact h.elim (absurd hop) (absurd hok)

/-- A request returns with `RON` written and some inputs drawn: what it leaves. -/
theorem returnResult_ron_spec (b : BusId) (r : Result) (idx : Nat) (ron : Option Bool) (o : Oracle) (s t : State)
    (ht : t = returnResult b r idx ((s.setOracle o).setEng b { s.eng b with ron := ron })) :
    t.eng b = { s.eng b with state := .IDLE, sub := 0, ron := ron, result := r, resultIndex := idx } ∧
      t.ctl b = s.ctl b ∧ OnlyBus b s t ∧ SameOtherCore (s.eng b).requester s t ∧
      SameCoreButFrames (s.eng b).requester s t ∧ t.oracle = o ∧
      (Waiting b s → Returned b (s.eng b).requester r idx t) := by
  subst ht
  have hspec := returnResult_spec b r idx ((s.setOracle o).setEng b { s.eng b with ron := ron })
  rw [Waiting, State.eng_setEng, State.ctl_setEng] at hspec
  obtain ⟨heng, hctl, honly, hother, hframes, horacle, hret⟩ := hspec
  exact ⟨heng, hctl, (((OnlyBus.refl b s).setOracle o).setEng _).trans honly, hother, hframes, horacle, hret⟩

theorem finishCall_eq (hop : (s.eng b).op ≠ .TRANSFER) : finishCall b s = returnResult b (s.eng b).outcome.1
    (s.eng b).outcome.2 (s.setEng b { s.eng b with ron := some (s.eng b).ns }) :=
  callReturn_eq_returnResult (.inl (by rwa [State.eng_setEng]))

theorem timeoutReturn_eq (b : BusId) (s : State) :
    timeoutReturn b s = returnResult b .Timeout 0 (s.setEng b { s.eng b with ron := some (s.eng b).ns }) :=
  callReturn_eq_returnResult (.inr nofun)

/-! ## SETUP (R145) -/

/-- R104: the disable of SETUP, whatever the bus. -/
theorem setupStep_disabled {first : EngState} {e : Engine} {x : Ctl} {o : Oracle} {ag : Agent} (h : e.sub = 0) :
    setupStep b first (s.onBus b e x o ag) =
      s.onBus b { e with state := .SETUP, sub := 1 } (x.disabled s.params) o ag := by
  simp [setupStep, h, disable_eq, Ctl.disabled]

/-- SETUP's four statements: the controller disabled, addressed and enabled, then the engine before its first byte. -/
theorem execTimes_setup {first : EngState}
    (hi : i = .write b ns a ∧ first = .ISSUE ∨ i = .read b ns a ∧ first = .WAIT_SPACE) (h : AtEng b .SETUP 0 s) :
    execTimes i 4 s = .next (s.onBus b ((s.eng b).started first)
      { (s.ctl b).disabled s.params with en := some true, tar := some ((s.eng b).addr.setWidth 7) } s.oracle (.eng b)) := by
  obtain ⟨hcur, hst, hsub⟩ := h
  have setup : ∀ e y t, e.state = .SETUP → setupStep b first (s.onBus b e y s.oracle (.eng b)) = t →
      exec i (s.onBus b e y s.oracle (.eng b)) = .next t := fun e y t he ht =>
    (exec_call_setup (sub := e.sub) hi ⟨rfl, by rw [State.eng_onBus, he], by rw [State.eng_onBus]⟩).trans (congrArg _ ht)
  have hdisable := setup _ (s.ctl b) _ hst (setupStep_disabled hsub)
  rw [← hcur, State.onBus_self, hcur] at hdisable
  refine (execTimes_succ hdisable).trans ?_
  refine (execTimes_succ (setup _ _ _ rfl (setupStep_tar rfl rfl))).trans ?_
  refine (execTimes_succ (setup _ _ _ rfl (setupStep_enable rfl))).trans ?_
  exact (execTimes_succ (setup _ _ _ rfl (setupStep_start (n := 0) rfl))).trans (execTimes_zero ..)

/-! ## The stop wait and its clear (R146, R150, R151) -/

theorem writeCallStep_stopWait (h : (s.eng b).state = .WAIT_STOP) (h0 : (s.eng b).sub = 0) :
    writeCallStep b s =
      .next (if (s.ctl b).stopDet then goto b .CLEAR_STOP 0 s else pollAgain b (stopHasDraw b s) 1 s) := by
  simp only [writeCallStep, h, h0]

theorem writeCallStep_stopDraw (h : (s.eng b).state = .WAIT_STOP) (h0 : (s.eng b).sub ≠ 0) :
    writeCallStep b s = .next (stopDraw b s) := by
  simp [writeCallStep, h]

theorem stopHasDraw_iff : stopHasDraw b s = true ↔
    (s.eng b).budget = true ∨ s.params.WRITE_TIMEOUT_POLARITY = .legacy_inverted := by
  simp [stopHasDraw]

/-- R151: the legacy timeout of a call without a budget, in the step after a failed poll. -/
theorem exec_write_legacy_timeout (hcur : s.cur = .eng b) (hb : (s.eng b).budget = false)
    (hlegacy : s.params.WRITE_TIMEOUT_POLARITY = .legacy_inverted) :
    exec (.write b ns a) (goto b .WAIT_STOP 1 s) = .next (timeoutReturn b (goto b .WAIT_STOP 1 s)) := by
  have heng : (goto b .WAIT_STOP 1 s).eng b = { s.eng b with state := .WAIT_STOP, sub := 1 } := State.eng_setEng ..
  rw [exec_write_eng (by exact hcur), writeCallStep_stopDraw (by rw [heng]) (by rw [heng]; exact one_ne_zero), stopDraw,
    if_pos ⟨by rw [heng]; exact hb, hlegacy⟩]

theorem writeCallStep_clearStop (h : (s.eng b).state = .CLEAR_STOP) :
    writeCallStep b s = .next ((s.setCtl b { s.ctl b with stopDet := false }).setEng b
      (if (s.eng b).abort then { s.eng b with state := .FINISH, sub := 0 } else (s.eng b).advanced .ISSUE)) := by
  simp only [writeCallStep, h, readClrStopDet, nextByte_eq, goto_eq, State.eng_setCtl]
  split <;> rfl

/-! ## The receive wait (R157) -/

theorem readCallStep_count (h : (s.eng b).state = .WAIT_RX) (h0 : (s.eng b).sub = 0) :
    readCallStep b s = .next (if (s.ctl b).rxq ≠ [] then goto b .POP 0 s else goto b .WAIT_RX 1 s) := by
  simp only [readCallStep, h, h0, Ctl.rxAvail, List.length_pos_iff]

/-- R52, R157: the abort source read and cleared, a value kept with its byte's index; then FINISH, the draw, or the next poll. -/
theorem readCallStep_abort (h : (s.eng b).state = .WAIT_RX) (h1 : (s.eng b).sub = 1) :
    readCallStep b s = .next ((s.setCtl b { s.ctl b with abrtSrc := 0 }).setEng b
      (if (s.ctl b).abrtSrc = 0 then { s.eng b with state := .WAIT_RX, sub := if (s.eng b).budget then 2 else 0 }
        else { (s.eng b).noted (s.ctl b).abrtSrc with state := .FINISH, sub := 0 })) := by
  by_cases hv : (s.ctl b).abrtSrc = 0
  · cases hb : (s.eng b).budget <;> simp [readCallStep, h, h1, readAbrtSrc, hv, hb, noteAbort, pollAgain, goto_eq]
  · simp only [readCallStep, h, h1, readAbrtSrc, noteAbort_eq, goto_setEng, if_neg hv, State.eng_setCtl]

/-! ## The budget draw (R143, R193) -/

/-- R143: a poll with a budget draws, and ends or polls again. -/
theorem budgetDraw_eq {d : Bool} {s1 : State} (hb : (s.eng b).budget = true) (hd : drawTimeout s = (d, s1)) :
    budgetDraw b s = if d then timeoutReturn b s1 else goto b (s.eng b).state 0 s1 := by
  simp only [budgetDraw, hb, hd, if_true]

/-- Past CHECK the steps of a WRITE call are the same as a request of its own and as a TRANSFER's phase (R174). -/
theorem exec_write_call (hcur : s.cur = .eng b) (hst : (s.eng b).state ≠ .CHECK)
    (hi : i = .write b ns a ∨ (i = .transfer b a ∧ (s.eng b).phase = .write)) : exec i s = writeCallStep b s := by
  rcases hi with rfl | ⟨rfl, hphase⟩
  · exact exec_write_eng hcur
  · simp [exec, execTransfer, hcur, transferStep, hst, hphase]

/-- The same of a READ call. -/
theorem exec_read_call (hcur : s.cur = .eng b) (hst : (s.eng b).state ≠ .CHECK)
    (hi : i = .read b ns a ∨ (i = .transfer b a ∧ (s.eng b).phase = .read)) : exec i s = readCallStep b s := by
  rcases hi with rfl | ⟨rfl, hphase⟩
  · exact exec_read_eng hcur
  · simp [exec, execTransfer, hcur, transferStep, hst, hphase]

theorem stopDraw_of_budget (hb : (s.eng b).budget = true) : stopDraw b s = budgetDraw b s :=
  if_neg fun h => nomatch h.1.symm.trans hb

/-- Each of the three draws of a wait with a budget is `budgetDraw`. -/
theorem exec_draw (hcur : s.cur = .eng b) (hb : (s.eng b).budget = true)
    (hi : ((i = .write b ns a ∨ (i = .transfer b a ∧ (s.eng b).phase = .write)) ∧ (s.eng b).sub = 1 ∧
        ((s.eng b).state = .WAIT_TX_EMPTY ∨ (s.eng b).state = .WAIT_STOP)) ∨
      ((i = .read b ns a ∨ (i = .transfer b a ∧ (s.eng b).phase = .read)) ∧ (s.eng b).sub = 2 ∧
        (s.eng b).state = .WAIT_RX)) :
    exec i s = .next (budgetDraw b s) := by
  rcases hi with ⟨hi, hsub, hst | hst⟩ | ⟨hi, hsub, hst⟩
  · rw [exec_write_call hcur (by rw [hst]; decide) hi]
    simp [writeCallStep, hst, hsub]
  · rw [exec_write_call hcur (by rw [hst]; decide) hi, writeCallStep_stopDraw hst (by rw [hsub]; decide),
      stopDraw_of_budget hb]
  · rw [exec_read_call hcur (by rw [hst]; decide) hi]
    simp [readCallStep, hst, hsub]

end Calls

/-! ## The obligations -/

/-- Settles O31: each clause is a branch of `entryChecks`; its two ends return the request. -/
theorem entryChecksInOrder : Obligations.EntryChecksInOrder := by
  intro b ns a i sub s hi h
  rw [exec_call_check hi h, entryChecks]
  intro bad ends
  have hbad : badAddress (s.eng b).addr = true ↔ bad := badAddress_iff _
  have returns : ∀ r, (s.eng b).op ≠ .TRANSFER → ∃ t, callReturn b (r, 0) s = t ∧ t.ctl b = s.ctl b ∧
      t.eng b = { s.eng b with state := .IDLE, sub := 0, result := r, resultIndex := 0 } ∧
      (Waiting b s → Returned b (s.eng b).requester r 0 t) ∧ OnlyBus b s t ∧
      SameOtherCore (s.eng b).requester s t ∧ SameCoreButFrames (s.eng b).requester s t := fun r hop => by
    obtain ⟨heng, hctl, honly, hother, hframes, -, hret⟩ := returnResult_spec b r 0 s
    exact ⟨_, callReturn_eq_returnResult (.inl hop), hctl, heng, hret, honly, hother, hframes⟩
  refine ⟨fun hc => ?unconfigured, fun hop hc hb => ?badAddress, fun hop hc hb hlen => ?empty, fun hc hb hlen => ?passes⟩
  case unconfigured => rw [if_pos hc]; rfl
  case badAddress =>
    obtain ⟨t, hrun, hleft⟩ := returns .InvalidTargetAddress hop
    exact ⟨t, by rw [if_neg (by simp [hc]), if_pos (hbad.2 hb), hrun], hleft⟩
  case empty =>
    obtain ⟨t, hrun, hleft⟩ := returns .OK hop
    exact ⟨t, by rw [if_neg (by simp [hc]), if_neg (mt hbad.1 hb), if_pos hlen, hrun], hleft⟩
  case passes =>
    obtain ⟨hmove, hctl, honly, hcores⟩ := goto_frame b .SETUP 0 s
    exact ⟨_, by rw [if_neg (by simp [hc]), if_neg (mt hbad.1 hb), if_neg hlen], hmove, hctl, honly, hcores⟩

/-- Settles O32: the four statements leave a state that differs in the one bus alone. -/
theorem setupProgramsTheAddress : Obligations.SetupProgramsTheAddress := by
  intro b ns a i first s hi h
  refine ⟨_, execTimes_setup hi h, State.ctl_onBus, State.eng_onBus, ?_⟩
  obtain ⟨hother, hlocks, hmem, hcores⟩ := State.onBus_frame b ((s.eng b).started first)
    { (s.ctl b).disabled s.params with en := some true, tar := some ((s.eng b).addr.setWidth 7) } s.oracle (.eng b) s
  exact ⟨⟨hother, hlocks, hmem, rfl, h.1.symm⟩, hcores⟩

/-- Settles O36: the stop wait by whether the stop is there and, if not, whether a draw or the legacy timeout follows. -/
theorem stopWaitUnderBothPolarities : Obligations.StopWaitUnderBothPolarities := by
  constructor
  · rintro b ns a s ⟨hcur, hst, hsub⟩ e legacy
    rw [exec_write_eng hcur, writeCallStep_stopWait hst hsub]
    cases hdet : (s.ctl b).stopDet with
    | true =>
      obtain ⟨hmove, hctl, honly, hcores⟩ := goto_frame b .CLEAR_STOP 0 s
      exact ⟨_, rfl, hctl, honly, hcores, fun _ => hmove, nofun, nofun, nofun⟩
    | false =>
      by_cases hdraw : e.budget = true ∨ legacy
      · obtain ⟨hmove, hctl, honly, hcores⟩ := goto_frame b .WAIT_STOP 1 s
        refine ⟨goto b .WAIT_STOP 1 s, by rw [stopHasDraw_iff.2 hdraw, pollAgain_budget, hst]; rfl, hctl, honly, hcores,
          nofun, fun _ _ => hmove, fun _ hb hl => ?noDraw, fun _ hb hl => ⟨_, exec_write_legacy_timeout hcur hb hl, ?legacy⟩⟩
        case noDraw => exact absurd hdraw (not_or.2 ⟨by rw [hb]; decide, hl⟩)
        case legacy => simp [timeoutReturn_eq, returnResult_eq, goto_eq, e]
      · have hstay : stopHasDraw b s = false := Bool.eq_false_iff.2 (mt stopHasDraw_iff.1 hdraw)
        exact ⟨s, by rw [hstay, pollAgain_without_budget hsub]; rfl, rfl, .refl b s, fun _ => rfl, nofun,
          fun _ h => absurd h hdraw, fun _ _ _ => rfl, fun _ _ hl => absurd (.inr hl) hdraw⟩
  · rintro b ns a sub s ⟨hcur, hst, -⟩ e
    refine ⟨_, (exec_write_eng hcur).trans (writeCallStep_clearStop hst), by simp, ((OnlyBus.refl b s).setCtl _).setEng _,
      fun _ => rfl, fun hend => ?finish, fun habort hnext => ?next⟩
    case finish =>
      rw [MovedTo, State.eng_setEng]
      split
      · rfl
      · exact if_neg (hend.resolve_left ‹_›)
    case next => rw [State.eng_setEng, if_neg (by simpa using habort), Engine.advanced, if_pos hnext]

/-- Settles O37: FINISH returns the engine's outcome, with `RON` written. -/
theorem finishClassifiesTheOutcome : Obligations.FinishClassifiesTheOutcome := by
  intro b ns a i sub s hi h hop hwait e out
  have hout : e.outcome = out := by
    cases habort : e.abort <;> simp [out, Engine.outcome, classify, habort, ABRT_ADDR_NACK_BIT]
  obtain ⟨heng, hctl, honly, hother, hframes, -, hret⟩ :=
    returnResult_ron_spec b e.outcome.1 e.outcome.2 (some e.ns) s.oracle s _ rfl
  rw [← hout]
  exact ⟨_, (exec_call_finish hi h).trans (congrArg _ (finishCall_eq hop)), hret hwait, heng, hctl, honly, hother, hframes⟩

/-- Settles O38: the draw changes the inputs alone; then the request returns, or the wait polls again. -/
theorem anExpiredBudgetEndsTheCall : Obligations.AnExpiredBudgetEndsTheCall := by
  intro b ns a i s d s1 hcur hb hwait hd hi
  rw [exec_draw hcur hb hi, budgetDraw_eq hb hd]
  obtain ⟨o, rfl⟩ : ∃ o, s1 = s.setOracle o := by simpa [hd] using drawTimeout_snd s
  cases d with
  | true =>
    obtain ⟨heng, hctl, honly, hother, hframes, horacle, hret⟩ :=
      returnResult_ron_spec b .Timeout 0 (some (s.eng b).ns) o s _ rfl
    exact ⟨_, by rw [if_pos rfl, timeoutReturn_eq]; rfl, hctl, horacle, honly, hother,
      fun _ => ⟨hret hwait, by rw [heng], hframes⟩, nofun⟩
  | false =>
    obtain ⟨hmove, hctl, honly, hcores⟩ := goto_frame b (s.eng b).state 0 (s.setOracle o)
    exact ⟨_, rfl, hctl, rfl, ((OnlyBus.refl b s).setOracle o).trans honly, fun c _ => hcores c, nofun,
      fun _ => ⟨hmove, hcores⟩⟩

/-- Settles O40: the count decides the first step, the abort source and the budget the second. -/
theorem receiveWaitTestsCountThenAbortThenBudget : Obligations.ReceiveWaitTestsCountThenAbortThenBudget := by
  constructor
  · rintro b ns a s ⟨hcur, hst, hsub⟩
    rw [exec_read_eng hcur, readCallStep_count hst hsub]
    by_cases hq : (s.ctl b).rxq = []
    · obtain ⟨hmove, hctl, honly, hcores⟩ := goto_frame b .WAIT_RX 1 s
      exact ⟨_, by rw [if_neg (not_not.2 hq)], hctl, honly, hcores, absurd hq, fun _ => hmove⟩
    · obtain ⟨hmove, hctl, honly, hcores⟩ := goto_frame b .POP 0 s
      exact ⟨_, by rw [if_pos hq], hctl, honly, hcores, fun _ => hmove, (absurd · hq)⟩
  · rintro b ns a s ⟨hcur, hst, hsub⟩ e v
    refine ⟨_, (exec_read_eng hcur).trans (readCallStep_abort hst hsub), by simp, ((OnlyBus.refl b s).setCtl _).setEng _,
      fun _ => rfl, fun hv => ?abort, fun hv hb => ?draw, fun hv hb => ?poll⟩
    case abort => rw [State.eng_setEng, if_neg hv, Engine.noted, if_neg hv]
    case draw => rw [MovedTo, State.eng_setEng, if_pos hv, if_pos hb]
    case poll => rw [MovedTo, State.eng_setEng, if_pos hv, if_neg (by simpa using hb)]

end Sys2Proof.Machine
end

section
/-! SUPPORT. No step of one bus reads or writes the other (R177): every operation of a bus's engine and controller commutes with
the replacement of the other bus as a whole: obligation O53. -/

namespace Sys2Proof.Machine

open Sys2Proof.Config

section SetBus

variable {b b' : BusId} {z : Bus} {s : State}

/-! ## Reading and updating a part beside the replaced bus -/

@[simp] theorem State.params_setBus : (s.setBus b' z).params = s.params := rfl
@[simp] theorem State.mem_setBus : (s.setBus b' z).mem = s.mem := rfl
@[simp] theorem State.writes_setBus : (s.setBus b' z).writes = s.writes := rfl
@[simp] theorem State.ahead_setBus : (s.setBus b' z).ahead = s.ahead := rfl
@[simp] theorem State.oracle_setBus : (s.setBus b' z).oracle = s.oracle := rfl
@[simp] theorem State.cur_setBus : (s.setBus b' z).cur = s.cur := rfl
@[simp] theorem State.coreOf_setBus (c : CoreId) : (s.setBus b' z).coreOf c = s.coreOf c := rfl
@[simp] theorem State.setMem_setBus (m : Memory) (w : List WriteEv) :
    (s.setBus b' z).setMem m w = (s.setMem m w).setBus b' z := rfl
@[simp] theorem State.setAhead_setBus (l : List Ahead) :
    (s.setBus b' z).setAhead l = (s.setAhead l).setBus b' z := rfl
@[simp] theorem State.setOracle_setBus (o : Oracle) :
    (s.setBus b' z).setOracle o = (s.setOracle o).setBus b' z := rfl
@[simp] theorem State.setCur_setBus (ag : Agent) : (s.setBus b' z).setCur ag = (s.setCur ag).setBus b' z := rfl
@[simp] theorem State.setCore_setBus (c : CoreId) (k : Core) :
    (s.setBus b' z).setCore c k = (s.setCore c k).setBus b' z := rfl

@[simp] theorem State.eng_setBus (hb : b' ≠ b) : (s.setBus b' z).eng b = s.eng b := by
  simp [State.setBus, State.eng, PerBus.get_set_ne _ _ hb.symm]
@[simp] theorem State.ctl_setBus (hb : b' ≠ b) : (s.setBus b' z).ctl b = s.ctl b := by
  simp [State.setBus, State.ctl, PerBus.get_set_ne _ _ hb.symm]
@[simp] theorem State.setEng_setBus (hb : b' ≠ b) (e : Engine) :
    (s.setBus b' z).setEng b e = (s.setEng b e).setBus b' z := by
  obtain ⟨rfl, rfl⟩ | ⟨rfl, rfl⟩ := BusId.ne_cases hb <;> rfl
@[simp] theorem State.setCtl_setBus (hb : b' ≠ b) (x : Ctl) :
    (s.setBus b' z).setCtl b x = (s.setCtl b x).setBus b' z := by
  obtain ⟨rfl, rfl⟩ | ⟨rfl, rfl⟩ := BusId.ne_cases hb <;> rfl

@[simp] theorem mapNext_next (f : State → State) (t : State) : mapNext f (.next t) = .next (f t) := rfl
@[simp] theorem mapNext_fatal (f : State → State) (e : Fault) : mapNext f (fatal e) = fatal e := rfl
@[simp] theorem mapNext_noStep (f : State → State) (t : State) : mapNext f (noStep t) = noStep (f t) := rfl

/-! ## Draws and ordinary memory -/

@[simp] theorem drawAck_setBus : drawAck (s.setBus b' z) = ((drawAck s).1, (drawAck s).2.setBus b' z) := by
  cases h : s.oracle.acks <;> simp [drawAck, h]
@[simp] theorem drawByte_setBus : drawByte (s.setBus b' z) = ((drawByte s).1, (drawByte s).2.setBus b' z) := by
  cases h : s.oracle.bytes <;> simp [drawByte, h]
@[simp] theorem drawAbort_setBus : drawAbort (s.setBus b' z) = ((drawAbort s).1, (drawAbort s).2.setBus b' z) := by
  cases h : s.oracle.aborts <;> simp [drawAbort, h]
@[simp] theorem drawExtra_setBus : drawExtra (s.setBus b' z) = ((drawExtra s).1, (drawExtra s).2.setBus b' z) := by
  cases h : s.oracle.extras <;> simp [drawExtra, h]
@[simp] theorem drawTimeout_setBus :
    drawTimeout (s.setBus b' z) = ((drawTimeout s).1, (drawTimeout s).2.setBus b' z) := by
  cases h : s.oracle.timeouts <;> simp [drawTimeout, h]
@[simp] theorem drawChoice_setBus :
    drawChoice (s.setBus b' z) = ((drawChoice s).1, (drawChoice s).2.setBus b' z) := by
  cases h : s.oracle.choices <;> simp [drawChoice, h]

theorem memRead_setBus (c : CoreId) (a : Nat) :
    memRead c a (s.setBus b' z) = (memRead c a s).map fun p => (p.1, p.2.setBus b' z) := by
  have hchoices : readChoices c a (s.setBus b' z) = readChoices c a s := readChoices_congr rfl rfl rfl rfl
  simp only [memRead, hchoices, State.params_setBus]
  split
  · split
    · simp [markRaced]
    · rfl
    · rfl
  · rfl

theorem memWrite_setBus (c : CoreId) (a : Nat) (v : Byte) :
    memWrite c a v (s.setBus b' z) = (memWrite c a v s).map (·.setBus b' z) := by
  cases hin : s.params.inMemory a
  · rw [memWrite_out hin, memWrite_out (by exact hin)]
    rfl
  · rw [memWrite_in hin, memWrite_in (by exact hin)]
    rfl

/-! ## The operations of one bus -/

variable (hb : b' ≠ b)
include hb

@[simp] theorem goto_setBus (st : EngState) (sub : Nat) :
    goto b st sub (s.setBus b' z) = (goto b st sub s).setBus b' z := by simp [goto_eq, hb]
@[simp] theorem disable_setBus : disable b (s.setBus b' z) = (disable b s).setBus b' z := by simp [disable_eq, hb]
@[simp] theorem enable_setBus : enable b (s.setBus b' z) = (enable b s).setBus b' z := by simp [enable_eq, hb]
@[simp] theorem emit_setBus (ev : List BusEvent) : emit b ev (s.setBus b' z) = (emit b ev s).setBus b' z := by
  simp [emit_eq, hb]
@[simp] theorem returnResult_setBus (r : Result) (idx : Nat) :
    returnResult b r idx (s.setBus b' z) = (returnResult b r idx s).setBus b' z := by simp [returnResult_eq, hb]

@[simp] theorem writeConMode_setBus : writeConMode b (s.setBus b' z) = (writeConMode b s).setBus b' z := by
  simp only [writeConMode, State.ctl_setBus hb, State.setCtl_setBus hb]
  split <;> rfl
@[simp] theorem writeTar_setBus (a : BitVec ADDR_WIDTH) :
    writeTar b a (s.setBus b' z) = (writeTar b a s).setBus b' z := by
  simp only [writeTar, State.ctl_setBus hb, State.setCtl_setBus hb]
  split <;> rfl
@[simp] theorem baudWrite_setBus (j : Nat) : baudWrite b j (s.setBus b' z) = (baudWrite b j s).setBus b' z := by
  simp only [baudWrite, State.eng_setBus hb]
  split
  · rfl
  split <;>
    simp [hb, writeFsHcnt, writeFsLcnt, writeFsSpklen, writeTxHold, writeConSpeed_eq]

theorem baudCheck_setBus (st : EngState) (sub : Nat) :
    baudCheck b st sub (s.setBus b' z) = mapNext (·.setBus b' z) (baudCheck b st sub s) := by
  simp only [baudCheck, State.eng_setBus hb, State.params_setBus]
  split
  · simp [hb]
  split <;> simp [hb]

/-! ## How calls end, and what WRITE and READ share -/

@[simp] theorem startReadCall_setBus : startReadCall b (s.setBus b' z) = (startReadCall b s).setBus b' z := by
  simp [startReadCall, hb]
@[simp] theorem startWriteCall_setBus : startWriteCall b (s.setBus b' z) = (startWriteCall b s).setBus b' z := by
  simp [startWriteCall, hb]
@[simp] theorem callReturn_setBus (r : Result × Nat) :
    callReturn b r (s.setBus b' z) = (callReturn b r s).setBus b' z := by
  simp only [callReturn, State.eng_setBus hb]
  split <;> simp [hb]
@[simp] theorem finishCall_setBus : finishCall b (s.setBus b' z) = (finishCall b s).setBus b' z := by
  simp [finishCall, hb]
@[simp] theorem timeoutReturn_setBus : timeoutReturn b (s.setBus b' z) = (timeoutReturn b s).setBus b' z := by
  simp [timeoutReturn, hb]
@[simp] theorem budgetDraw_setBus : budgetDraw b (s.setBus b' z) = (budgetDraw b s).setBus b' z := by
  simp only [budgetDraw, State.eng_setBus hb, drawTimeout_setBus]
  split
  · split <;> simp [hb]
  · simp [hb]
@[simp] theorem stopDraw_setBus : stopDraw b (s.setBus b' z) = (stopDraw b s).setBus b' z := by
  simp only [stopDraw, State.eng_setBus hb, State.params_setBus]
  split <;> simp [hb]
@[simp] theorem pollAgain_setBus (budget : Bool) (n : Nat) :
    pollAgain b budget n (s.setBus b' z) = (pollAgain b budget n s).setBus b' z := by
  cases budget <;> simp [pollAgain, hb]
@[simp] theorem stopHasDraw_setBus : stopHasDraw b (s.setBus b' z) = stopHasDraw b s := by
  rw [stopHasDraw, State.eng_setBus hb]
  rfl
@[simp] theorem setupStep_setBus (first : EngState) :
    setupStep b first (s.setBus b' z) = (setupStep b first s).setBus b' z := by
  simp only [setupStep, State.eng_setBus hb]
  split <;> simp [hb]
@[simp] theorem nextByte_setBus (first : EngState) :
    nextByte b first (s.setBus b' z) = (nextByte b first s).setBus b' z := by
  simp only [nextByte, State.eng_setBus hb]
  split <;> simp [hb]
@[simp] theorem readAbrtSrc_setBus :
    readAbrtSrc b (s.setBus b' z) = ((readAbrtSrc b s).1, (readAbrtSrc b s).2.setBus b' z) := by
  simp [readAbrtSrc, hb]
@[simp] theorem readClrStopDet_setBus : readClrStopDet b (s.setBus b' z) = (readClrStopDet b s).setBus b' z := by
  simp [readClrStopDet, hb]
@[simp] theorem noteAbort_setBus (v : Word) : noteAbort b v (s.setBus b' z) = (noteAbort b v s).setBus b' z := by
  simp [noteAbort_eq, hb]

theorem entryChecks_setBus : entryChecks b (s.setBus b' z) = mapNext (·.setBus b' z) (entryChecks b s) := by
  simp only [entryChecks, State.eng_setBus hb]
  split
  · rfl
  split
  · simp [hb]
  split <;> simp [hb]

theorem issueWord_setBus (cmd : Bool) (dat : Byte) (wait : EngState) :
    issueWord b cmd dat wait (s.setBus b' z) = mapNext (·.setBus b' z) (issueWord b cmd dat wait s) := by
  simp only [issueWord, pushDataCmd, State.eng_setBus hb, State.ctl_setBus hb, State.params_setBus]
  split
  · rfl
  split <;> simp [hb]

/-! ## One step of each request -/

theorem writeCallStep_setBus : writeCallStep b (s.setBus b' z) = mapNext (·.setBus b' z) (writeCallStep b s) := by
  simp only [writeCallStep, State.eng_setBus hb, State.ctl_setBus hb]
  split
  next => exact entryChecks_setBus hb
  next => simp [hb]
  next =>
    rw [memRead_setBus]
    cases memRead (s.eng b).requester ((s.eng b).operands.wbuf + (s.eng b).k) s <;> simp [hb]
  next => exact issueWord_setBus hb ..
  next => split <;> simp [hb]
  next => simp [hb]
  next =>
    simp only [readAbrtSrc_setBus hb, noteAbort_setBus hb, State.eng_setBus hb]
    split <;> simp [hb]
  next => split <;> simp [hb]
  next => simp [hb]
  next => split <;> simp [hb]
  next => simp [hb]
  next => rfl

theorem readCallStep_setBus : readCallStep b (s.setBus b' z) = mapNext (·.setBus b' z) (readCallStep b s) := by
  simp only [readCallStep, State.eng_setBus hb, State.ctl_setBus hb, State.params_setBus]
  split
  next => exact entryChecks_setBus hb
  next => simp [hb]
  next => split <;> simp [hb]
  next => exact issueWord_setBus hb ..
  next => split <;> simp [hb]
  next =>
    simp only [readAbrtSrc_setBus hb, noteAbort_setBus hb]
    split <;> simp [hb]
  next => simp [hb]
  next =>
    simp only [popDataCmd, State.ctl_setBus hb]
    split <;> simp [hb]
  next =>
    rw [memWrite_setBus]
    cases memWrite (s.eng b).requester ((s.eng b).operands.rbuf + (s.eng b).k) (s.eng b).byte s <;> simp [hb]
  next => simp [hb]
  next => rfl

theorem setbaudStep_setBus : setbaudStep b (s.setBus b' z) = mapNext (·.setBus b' z) (setbaudStep b s) := by
  simp only [setbaudStep, State.eng_setBus hb]
  split
  next =>
    split
    · exact baudCheck_setBus hb ..
    · rfl
  next => split <;> simp [hb]
  next => simp [hb]
  next => rfl

theorem configureStep_setBus : configureStep b (s.setBus b' z) = mapNext (·.setBus b' z) (configureStep b s) := by
  simp only [configureStep, State.eng_setBus hb]
  split
  next => simp [hb, blockReset]
  next => simp [hb]
  next => simp [hb]
  next => simp [hb]
  next => simp [hb]
  next => simp [hb, writeTxTl]
  next => simp [hb, writeRxTl]
  next => simp [hb, writeDmaCr]
  next => exact baudCheck_setBus hb ..
  next => split <;> simp [hb]
  next => rfl

theorem transferStep_setBus : transferStep b (s.setBus b' z) = mapNext (·.setBus b' z) (transferStep b s) := by
  simp only [transferStep, transferCheck, State.eng_setBus hb]
  split
  · split
    · rfl
    split
    · simp [hb]
    split
    · simp [hb]
    split <;> simp [hb]
  · split
    · exact writeCallStep_setBus hb
    · exact readCallStep_setBus hb

theorem engStep_setBus : engStep b (s.setBus b' z) = mapNext (·.setBus b' z) (engStep b s) := by
  simp only [engStep, Engine.instr, State.eng_setBus hb, State.setCur_setBus]
  split
  · rfl
  split
  · exact configureStep_setBus hb
  · exact setbaudStep_setBus hb
  · exact writeCallStep_setBus hb
  · exact readCallStep_setBus hb
  · exact transferStep_setBus hb

/-! ## The controller's steps -/

@[simp] theorem abortWith_setBus (m : Word) : abortWith b m (s.setBus b' z) = (abortWith b m s).setBus b' z := by
  simp [abortWith, hb]
@[simp] theorem endCommand_setBus (stop : Bool) (rw' : Dir) :
    endCommand b stop rw' (s.setBus b' z) = (endCommand b stop rw' s).setBus b' z := by
  cases stop <;> simp [endCommand, hb]
@[simp] theorem writeData_setBus (dat : Byte) (stop : Bool) :
    writeData b dat stop (s.setBus b' z) = (writeData b dat stop s).setBus b' z := by
  simp only [writeData, emit_setBus hb, drawAck_setBus]
  split <;> simp [hb]
@[simp] theorem readData_setBus (stop : Bool) :
    readData b stop (s.setBus b' z) = (readData b stop s).setBus b' z := by
  simp [readData, hb]

theorem withFraming_setBus {restart : Bool} {rw' : Dir} {go : State → State}
    (hgo : ∀ t : State, go (t.setBus b' z) = (go t).setBus b' z) :
    withFraming b restart rw' go (s.setBus b' z) = mapNext (·.setBus b' z) (withFraming b restart rw' go s) := by
  simp only [withFraming, State.ctl_setBus hb]
  split
  · rw [hgo, mapNext_next]
  split
  · rfl
  · simp only [addressPhase, emit_setBus hb, drawAck_setBus, mapNext_next]
    split <;> simp [hb, hgo]

theorem ctlLoad_setBus : ctlLoad b (s.setBus b' z) = mapNext (·.setBus b' z) (ctlLoad b s) := by
  simp only [ctlLoad, State.ctl_setBus hb, State.setCtl_setBus hb]
  split
  · split <;> rfl
  · rfl
theorem ctlStop_setBus : ctlStop b (s.setBus b' z) = mapNext (·.setBus b' z) (ctlStop b s) := by
  simp only [ctlStop, State.ctl_setBus hb, State.setCtl_setBus hb]
  split <;> rfl
theorem ctlOtherAbort_setBus : ctlOtherAbort b (s.setBus b' z) = mapNext (·.setBus b' z) (ctlOtherAbort b s) := by
  simp only [ctlOtherAbort, State.ctl_setBus hb, State.params_setBus, drawAbort_setBus, abortWith_setBus hb]
  split <;> rfl

theorem execCmdWrite_setBus {dat : Byte} {stop restart : Bool} (hcur : s.cur = .ctl b) :
    execCmdWrite dat stop restart (s.setBus b' z) = mapNext (·.setBus b' z) (execCmdWrite dat stop restart s) := by
  simp only [execCmdWrite, State.cur_setBus, hcur, Agent.bus, State.ctl_setBus hb]
  split
  · exact withFraming_setBus hb fun _ => writeData_setBus hb ..
  · rfl
theorem execCmdRead_setBus {dat : Byte} {stop restart : Bool} (hcur : s.cur = .ctl b) :
    execCmdRead dat stop restart (s.setBus b' z) = mapNext (·.setBus b' z) (execCmdRead dat stop restart s) := by
  simp only [execCmdRead, State.cur_setBus, hcur, Agent.bus, State.ctl_setBus hb, State.params_setBus]
  split
  · exact withFraming_setBus hb fun _ => readData_setBus hb ..
  · rfl

theorem performStep_setBus : performStep b (s.setBus b' z) = mapNext (·.setBus b' z) (performStep b s) := by
  simp only [performStep, decodeCmdw, State.ctl_setBus hb, State.setCur_setBus]
  split
  next => rfl
  next w _ =>
    split
    · exact execCmdRead_setBus hb (dat := w.extractLsb' 0 8) rfl
    · exact execCmdWrite_setBus hb rfl

end SetBus

/-- Settles O53: each of the bus's five picks, by the law of its step. -/
theorem instancesAreIsolated : Obligations.InstancesAreIsolated := by
  intro b b' p s z hb hp
  simp only [ctlPicks, List.mem_cons, List.not_mem_nil, or_false] at hp
  obtain rfl | rfl | rfl | rfl | rfl := hp
  · exact engStep_setBus hb
  · exact ctlLoad_setBus hb (s := s.setCur (.ctl b))
  · exact performStep_setBus hb
  · exact ctlStop_setBus hb (s := s.setCur (.ctl b))
  · exact ctlOtherAbort_setBus hb (s := s.setCur (.ctl b))

end Sys2Proof.Machine
end

section
/-! SUPPORT. CONFIGURE run to its end (R171, R172), and TRANSFER's first step, its phases and their ends (R174): obligations O25,
O26, O42 and O43. -/

namespace Sys2Proof.Machine

open Sys2Proof.Config

section Configure

variable {b : BusId} {e : Engine} {x : Ctl} {s t : State}

/-! ## CONFIGURE before the baud rate (R171) -/

/-- The controller `x` after CONFIGURE's block reset and PROGRAM: disabled, its mode written and its timing not (R41, R171). -/
def Ctl.programmed (x : Ctl) : Ctl :=
  { Ctl.reset with
    con := ⟨some true, none, some false, some true, some true⟩, en := some false, txTl := some 0, rxTl := some 0
    dmaCr := ⟨some true, some true⟩, trace := x.trace }

/-- The state `s` in CONFIGURE once `CONFIGURED` and `RON` are written, with controller `y`. -/
def State.configured (b : BusId) (y : Ctl) (s : State) : State :=
  s.onBus b { s.eng b with ron := some false, configured := true } y s.oracle (.eng b)

@[simp] theorem State.eng_configured (y : Ctl) :
    (s.configured b y).eng b = { s.eng b with ron := some false, configured := true } := State.eng_onBus
@[simp] theorem State.ctl_configured (y : Ctl) : (s.configured b y).ctl b = y := State.ctl_onBus
@[simp] theorem State.params_configured (y : Ctl) : (s.configured b y).params = s.params := rfl
@[simp] theorem State.setCtl_configured (x y : Ctl) : (s.configured b x).setCtl b y = s.configured b y :=
  State.setCtl_onBus y

/-- The first steps of a run, and then the rest. -/
theorem execTimes_add {i : Instr} {m n : Nat} (h : execTimes i m s = .next t) :
    execTimes i (m + n) s = execTimes i n t := by
  induction m generalizing s with
  | zero => cases h; rw [Nat.zero_add]
  | succ m ih =>
    rw [Nat.succ_add, execTimes]
    rw [execTimes] at h
    cases hs : exec i s with
    | next v => simp only [hs] at h ⊢; exact ih h
    | fault f => simp [hs] at h
    | refused f => simp [hs] at h

theorem exec_configure_onBus {o : Oracle} :
    exec (.configure b) (s.onBus b e x o (.eng b)) = configureStep b (s.onBus b e x o (.eng b)) := exec_configure_eng rfl

theorem execTimes_configure_reset (h : AtEng b .RESET_BLOCK 0 s) :
    execTimes (.configure b) 2 s = .next (s.onBus b { s.eng b with state := .PROGRAM, sub := 0, configured := true }
      { Ctl.reset with trace := (s.ctl b).trace } s.oracle (.eng b)) := by
  obtain ⟨hcur, hst, hsub⟩ := h
  have hreset : exec (.configure b) s = .next (s.onBus b { s.eng b with state := .RESET_BLOCK, sub := 1 }
      { Ctl.reset with trace := (s.ctl b).trace } s.oracle (.eng b)) := by
    conv_lhs => rw [← State.onBus_self b s, hcur]
    simp [exec_configure_onBus, configureStep, hst, hsub, blockReset]
  refine (execTimes_succ hreset).trans (execTimes_succ ?_)
  simp [exec_configure_onBus, configureStep]

theorem execTimes_configure_program {o : Oracle} (hst : e.state = .PROGRAM) (hsub : e.sub = 0) :
    execTimes (.configure b) 6 (s.onBus b e { Ctl.reset with trace := x.trace } o (.eng b)) =
      .next (s.onBus b { e with state := .FINISH, sub := 0, ron := some false } x.programmed o (.eng b)) := by
  simp [execTimes, exec_configure_onBus, configureStep, hst, hsub, disable_eq, writeConMode, writeTxTl, writeRxTl,
    writeDmaCr, Ctl.programmed, Ctl.reset, Con.unwritten]

/-- CONFIGURE's first eight steps bring it to the baud-rate check. -/
theorem execTimes_configure_eight (h : AtEng b .RESET_BLOCK 0 s) :
    execTimes (.configure b) 8 s = .next (goto b .FINISH 0 (s.configured b (s.ctl b).programmed)) := by
  rw [execTimes_add (m := 2) (n := 6) (execTimes_configure_reset h), execTimes_configure_program rfl rfl]
  simp [State.configured]

/-! ## The baud rate, CONFIGURE's FINISH -/

/-- A request returns from wherever its engine stands. -/
theorem returnResult_goto (b : BusId) (st : EngState) (sub : Nat) (r : Result) (idx : Nat) (s : State) :
    returnResult b r idx (goto b st sub s) = returnResult b r idx s := by
  simp [returnResult_eq, goto_eq]

theorem exec_configure_check (hcur : s.cur = .eng b) :
    exec (.configure b) (goto b .FINISH 0 s) = baudCheck b .FINISH 1 (goto b .FINISH 0 s) := by
  rw [exec_configure_eng (by exact hcur)]
  simp [configureStep, goto_eq]

theorem exec_configure_write (hcur : s.cur = .eng b) {n : Nat} (hn : n < 7) :
    exec (.configure b) (goto b .FINISH (n + 1) s) = .next (goto b .FINISH (n + 2) (baudWrite b n s)) := by
  rw [exec_configure_eng (by exact hcur)]
  simp only [configureStep, baudWrite_goto]
  simp [goto_eq, hn]

theorem exec_configure_return (hcur : s.cur = .eng b) :
    exec (.configure b) (goto b .FINISH 8 s) = .next (returnResult b .OK 0 s) := by
  rw [exec_configure_eng (by exact hcur), ← returnResult_goto b .FINISH 8]
  simp [configureStep, goto_eq]

theorem execTimes_configure_writes (hcur : s.cur = .eng b) {n : Nat} (hn : n ≤ 7) :
    execTimes (.configure b) n (goto b .FINISH 1 s) = .next (goto b .FINISH (n + 1) (baudWrites b n s)) := by
  induction n with
  | zero => rfl
  | succ n ih =>
    exact execTimes_snoc (ih (by omega)) (exec_configure_write ((cur_baudWrites b n s).trans hcur) (by omega))

/-- R171: an accepted frequency passes the check, the seven writes are made, and CONFIGURE returns. -/
theorem execTimes_configure_accepted (h : AtEng b .RESET_BLOCK 0 s)
    (hgood : badBaud (s.eng b).operands.freq.toNat = false)
    (hfits : spkRefused s.params (s.eng b).operands.freq.toNat = false) :
    execTimes (.configure b) 17 s = .next (returnResult b .OK 0
      (s.configured b ((s.ctl b).programmed.timed s.params (s.eng b).operands.freq.toNat))) := by
  have hcheck : exec (.configure b) (goto b .FINISH 0 (s.configured b (s.ctl b).programmed)) =
      .next (goto b .FINISH 1 (s.configured b (s.ctl b).programmed)) := by
    rw [exec_configure_check rfl]
    simp [baudCheck, goto_eq, hgood, hfits]
  have hwrites := execTimes_configure_writes (b := b) (s := s.configured b (s.ctl b).programmed) rfl le_rfl
  rw [baudWrites_seven (by simpa using hgood)] at hwrites
  have hrun := execTimes_snoc hwrites (exec_configure_return rfl)
  rw [execTimes_add (m := 8) (n := 9) (execTimes_configure_eight h), execTimes_succ hcheck, hrun]
  simp

/-- R41: the controller CONFIGURE leaves. Its own disable finds no bus open, so no stop is pending. -/
theorem Ctl.timed_programmed (p : Params) (f : Nat) (x : Ctl) :
    x.programmed.timed p f = { Ctl.reset with
      con := ⟨some true, some SPEED_FAST, some false, some true, some true⟩, en := some true
      fsHcnt := some (BitVec.ofNat 16 (baudHcnt f)), fsLcnt := some (BitVec.ofNat 16 (baudLcnt f))
      fsSpklen := some (BitVec.ofNat 8 (baudSpk f % 2 ^ SPKLEN_WIDTH))
      txHold := some (BitVec.ofNat HOLD_WIDTH (baudHold f))
      txTl := some 0, rxTl := some 0, dmaCr := ⟨some true, some true⟩, trace := x.trace } := by
  simp [Ctl.timed, Ctl.disabled, Ctl.programmed, Ctl.reset]

/-- R172: a refused frequency ends CONFIGURE at the check, with no timing written. -/
theorem execTimes_configure_refused (h : AtEng b .RESET_BLOCK 0 s)
    (hbad : badBaud (s.eng b).operands.freq.toNat = true) :
    execTimes (.configure b) 9 s =
      .next (returnResult b .InvalidBaudrate 0 (s.configured b (s.ctl b).programmed)) := by
  refine execTimes_snoc (execTimes_configure_eight h) ?_
  rw [exec_configure_check rfl, baudCheck, returnResult_goto]
  simp [goto_eq, hbad]

/-- R130: a spike length the parameter refuses ends the run at the check (log 17). -/
theorem execTimes_configure_spklen (h : AtEng b .RESET_BLOCK 0 s)
    (hgood : badBaud (s.eng b).operands.freq.toNat = false)
    (hspk : spkRefused s.params (s.eng b).operands.freq.toNat = true) :
    execTimes (.configure b) 9 s = .fault (.SpklenOverflow (.eng b) b (s.eng b).operands.freq
      (baudSpk (s.eng b).operands.freq.toNat)) := by
  rw [execTimes_add (m := 8) (n := 1) (execTimes_configure_eight h), execTimes, exec_configure_check rfl]
  simp [baudCheck, goto_eq, hgood, hspk, fatal]

/-- CONFIGURE returns: what it leaves. -/
theorem returnResult_configured (y : Ctl) (r : Result) (hcur : s.cur = .eng b) (hwait : Waiting b s) :
    (returnResult b r 0 (s.configured b y)).eng b = { s.eng b with
        state := .IDLE, sub := 0, ron := some false, configured := true, result := r, resultIndex := 0 } ∧
      (returnResult b r 0 (s.configured b y)).ctl b = y ∧
      Returned b (s.eng b).requester r 0 (returnResult b r 0 (s.configured b y)) ∧
      OnlyBus b s (returnResult b r 0 (s.configured b y)) ∧
      SameOtherCore (s.eng b).requester s (returnResult b r 0 (s.configured b y)) ∧
      SameCoreButFrames (s.eng b).requester s (returnResult b r 0 (s.configured b y)) := by
  have hspec := returnResult_spec b r 0 (s.configured b y)
  rw [Waiting, State.eng_configured, State.ctl_configured] at hspec
  obtain ⟨heng, hctl, honly, hother, hframes, -, hret⟩ := hspec
  obtain ⟨hbuses, hlocks, hmem, -⟩ := State.onBus_frame b
    { s.eng b with ron := some false, configured := true } y s.oracle (.eng b) s
  exact ⟨heng, hctl, hret hwait, OnlyBus.trans ⟨hbuses, hlocks, hmem, rfl, hcur.symm⟩ honly, hother, hframes⟩

end Configure

/-- Settles O25: the numbers given are the model's; they meet the checks, and the spike length decides between the clauses. -/
theorem configureProgramsTheController : Obligations.ConfigureProgramsTheController := by
  rintro b s f period lcnt hcnt hold spk h hwait rfl hf rfl rfl rfl hl hl' hh hh' rfl hhold rfl
  have hgood : badBaud (s.eng b).operands.freq.toNat = false := (badBaud_eq_false _).2 ⟨hf, hl, hl', hh, hh', hhold⟩
  refine ⟨fun hspk => ?accepted, fun hrefuse hspk => ?refused⟩
  case accepted =>
    obtain ⟨heng, hctl, hleft⟩ := returnResult_configured
      ((s.ctl b).programmed.timed s.params (s.eng b).operands.freq.toNat) .OK h.1 hwait
    exact ⟨_, execTimes_configure_accepted h hgood (spkRefused_eq_false hspk), hctl.trans (Ctl.timed_programmed ..), heng,
      hleft⟩
  case refused =>
    have hspk' : 2 ^ SPKLEN_WIDTH ≤ baudSpk (s.eng b).operands.freq.toNat := hspk
    exact execTimes_configure_spklen h hgood (by simp [spkRefused, hrefuse, hspk'])

/-- Settles O26: the check returns from the controller PROGRAM has left. -/
theorem configureWithABadFrequencyLeavesItDisabled : Obligations.ConfigureWithABadFrequencyLeavesItDisabled := by
  intro b s h hwait hbad
  obtain ⟨heng, hctl, hleft⟩ := returnResult_configured (s.ctl b).programmed .InvalidBaudrate h.1 hwait
  exact ⟨_, execTimes_configure_refused h hbad, hctl, by rw [heng], by rw [heng], hleft⟩

/-! ## TRANSFER (R174) -/

section Transfer

variable {b : BusId} {a : BitVec ADDR_WIDTH} {s : State}

theorem exec_transfer_eng (h : s.cur = .eng b) : exec (.transfer b a) s = transferStep b s := by
  simp only [exec, execTransfer, h]

theorem transferStep_check (hst : (s.eng b).state = .CHECK) (hsub : (s.eng b).sub = 0) :
    transferStep b s = transferCheck b s := if_pos ⟨hst, hsub⟩

/-- R174: TRANSFER's first step, of a configured engine. -/
theorem transferCheck_configured (hc : (s.eng b).configured = true) :
    transferCheck b s = .next (
      if badAddress (s.eng b).addr then returnResult b .InvalidTargetAddress 0 s
      else if 0 < (s.eng b).operands.wlen then startWriteCall b s
      else if 0 < (s.eng b).operands.rlen then startReadCall b s
      else returnResult b .OK 0 s) := by
  simp only [transferCheck, hc, Bool.true_eq_false, if_false]
  split
  · rfl
  split
  · rfl
  split <;> rfl

/-- Past its first step TRANSFER is the call its phase names. -/
theorem transferStep_write (h : ¬ ((s.eng b).state = .CHECK ∧ (s.eng b).sub = 0)) (hphase : (s.eng b).phase = .write) :
    transferStep b s = writeCallStep b s := by
  simp only [transferStep, if_neg h, hphase]
theorem transferStep_read (h : ¬ ((s.eng b).state = .CHECK ∧ (s.eng b).sub = 0)) (hphase : (s.eng b).phase = .read) :
    transferStep b s = readCallStep b s := by
  simp only [transferStep, if_neg h, hphase]

/-- TRANSFER starts a call: the context it runs in, and nothing else (R142, R174). -/
theorem startWriteCall_spec (b : BusId) (s : State) :
    (startWriteCall b s).ctl b = s.ctl b ∧
      (startWriteCall b s).eng b = { s.eng b with
        phase := .write, state := .CHECK, sub := 1, len := (s.eng b).operands.wlen, k := 0, ns := false
        budget := budgetOf (s.eng b).operands.tmo } ∧
      OnlyBus b s (startWriteCall b s) ∧ SameCores s (startWriteCall b s) :=
  ⟨State.ctl_setEng .., State.eng_setEng .., (OnlyBus.refl b s).setEng _, fun _ => rfl⟩
theorem startReadCall_spec (b : BusId) (s : State) :
    (startReadCall b s).ctl b = s.ctl b ∧
      (startReadCall b s).eng b = { s.eng b with
        phase := .read, state := .CHECK, sub := 1, len := (s.eng b).operands.rlen, k := 0, ns := false
        budget := budgetOf (s.eng b).operands.tmo } ∧
      OnlyBus b s (startReadCall b s) ∧ SameCores s (startReadCall b s) :=
  ⟨State.ctl_setEng .., State.eng_setEng .., (OnlyBus.refl b s).setEng _, fun _ => rfl⟩

theorem exec_transfer_finish {sub : Nat} (h : AtEng b .FINISH sub s) :
    exec (.transfer b a) s = .next (finishCall b s) := by
  obtain ⟨hcur, hst, -⟩ := h
  rw [exec_transfer_eng hcur]
  cases hphase : (s.eng b).phase with
  | write => simp [transferStep_write (by simp [hst]) hphase, writeCallStep, hst]
  | read => simp [transferStep_read (by simp [hst]) hphase, readCallStep, hst]

/-- A call is OK exactly if no abort was seen (R165). -/
theorem Engine.outcome_eq_OK {e : Engine} : e.outcome.1 = .OK ↔ e.abort = false := by
  cases habort : e.abort with
  | false => simp [Engine.outcome, habort]
  | true =>
    simp only [Engine.outcome, habort, if_true, classify]
    split <;> simp

/-- R174 step 3: an OK write phase with something to read. -/
theorem finishCall_startsRead (hop : (s.eng b).op = .TRANSFER) (hphase : (s.eng b).phase = .write)
    (habort : (s.eng b).abort = false) (hlen : 0 < (s.eng b).operands.rlen) :
    finishCall b s = startReadCall b (s.setEng b { s.eng b with ron := some (s.eng b).ns }) :=
  if_pos (by simpa [hop, hphase, hlen] using Engine.outcome_eq_OK.2 habort)

/-- Any other phase ends the request. -/
theorem finishCall_returns
    (h : ¬ ((s.eng b).phase = .write ∧ (s.eng b).abort = false ∧ 0 < (s.eng b).operands.rlen)) :
    finishCall b s = returnResult b (s.eng b).outcome.1 (s.eng b).outcome.2
      (s.setEng b { s.eng b with ron := some (s.eng b).ns }) := by
  refine if_neg fun hnext => h ?_
  rw [State.eng_setEng] at hnext
  obtain ⟨-, hphase, hok, hlen⟩ := hnext
  exact ⟨hphase, Engine.outcome_eq_OK.1 hok, hlen⟩

end Transfer

/-- Settles O42: each clause is a branch of `transferCheck`. -/
theorem transferChecksThenStartsAPhase : Obligations.TransferChecksThenStartsAPhase := by
  rintro b a s ⟨hcur, hst, hsub⟩
  rw [exec_transfer_eng hcur, transferStep_check hst hsub]
  intro e bad call ends
  have hbad : badAddress e.addr = true ↔ bad := badAddress_iff _
  have returned : ∀ r, transferCheck b s = .next (returnResult b r 0 s) → ends r := fun r hrun => by
    obtain ⟨heng, hctl, honly, hother, hframes, -, hret⟩ := returnResult_spec b r 0 s
    exact ⟨_, hrun, hctl, by rw [heng], hret, honly, hother, hframes⟩
  refine ⟨fun hc => ?unconfigured, fun hc hb => ?badAddress, fun hc hb hw => ?write, fun hc hb hw hr => ?read,
    fun hc hb hw hr => ?nothing⟩
  case unconfigured => exact if_pos hc
  case badAddress => exact returned _ (by rw [transferCheck_configured hc, if_pos (hbad.2 hb)])
  case write =>
    exact ⟨_, by rw [transferCheck_configured hc, if_neg (mt hbad.1 hb), if_pos hw], startWriteCall_spec b s⟩
  case read =>
    exact ⟨_, by rw [transferCheck_configured hc, if_neg (mt hbad.1 hb), if_neg hw.not_gt, if_pos hr],
      startReadCall_spec b s⟩
  case nothing =>
    exact returned _
      (by rw [transferCheck_configured hc, if_neg (mt hbad.1 hb), if_neg hw.not_gt, if_neg hr.not_gt])

/-- Settles O43: past the first step the phase names the call; at FINISH the call writes `RON` and, by its outcome and the
read length, starts the read call or returns. -/
theorem transferRunsItsCalls : Obligations.TransferRunsItsCalls := by
  refine ⟨fun b a ns a' s hcur hnot => ?calls, fun b a sub s h hop hwait => ?finish⟩
  case calls =>
    rw [exec_transfer_eng hcur, exec_write_eng hcur, exec_read_eng hcur]
    exact ⟨transferStep_write hnot, transferStep_read hnot⟩
  case finish =>
    intro e
    rw [exec_transfer_finish h]
    by_cases hnext : e.phase = .write ∧ e.abort = false ∧ 0 < e.operands.rlen
    · obtain ⟨hphase, habort, hlen⟩ := hnext
      obtain ⟨hctl, heng, honly, hcores⟩ := startReadCall_spec b (s.setEng b { e with ron := some e.ns })
      rw [State.eng_setEng] at heng
      refine ⟨_, congrArg _ (finishCall_startsRead hop hphase habort hlen), hctl.trans (State.ctl_setEng ..), by rw [heng],
        ((OnlyBus.refl b s).setEng _).trans honly, fun c _ => hcores c, fun _ _ _ => ⟨heng, hcores⟩,
        fun hend => absurd hend (by simp [hphase, habort, hlen.ne'])⟩
    · obtain ⟨heng, hctl, honly, hother, hframes, -, hret⟩ :=
        returnResult_ron_spec b e.outcome.1 e.outcome.2 (some e.ns) s.oracle s _ rfl
      exact ⟨_, congrArg _ (finishCall_returns hnext), hctl, congrArg Engine.ron heng, honly, hother,
        fun h1 h2 h3 => absurd ⟨h1, h2, h3⟩ hnext, fun _ => ⟨hret hwait, hframes⟩⟩

end Sys2Proof.Machine
end

section
/-! SUPPORT. The two picks of a core that concern handlers: a handler's start, and the return past a script's last line (R191):
obligation O59. -/

namespace Sys2Proof.Machine

variable {c : CoreId} {s : State}

/-! ## A handler's start -/

/-- R191: interrupts masked. -/
theorem irqStep_masked (hie : (s.coreOf c).ie = false) : irqStep c s = .next s :=
  if_neg fun ⟨h, _⟩ => Bool.false_ne_true (hie.symm.trans h)

/-- R191: interrupts enabled, on a core that has not halted. -/
theorem irqStep_enabled (hie : (s.coreOf c).ie = true) (hrun : (s.coreOf c).halted = false) :
    irqStep c s = .next ((drawHandler s).2.setCore c { s.coreOf c with
      frame := ⟨(drawHandler s).1, 0, .ready⟩, saved := (s.coreOf c).frame :: (s.coreOf c).saved }) :=
  if_pos ⟨hie, hrun⟩

/-- The handler drawn depends on the inputs alone, and the draw changes them alone. -/
theorem drawHandler_setCur (a : Agent) (s : State) :
    drawHandler (s.setCur a) = ((drawHandler s).1, (drawHandler s).2.setCur a) := by
  unfold drawHandler
  rw [State.oracle_setCur]
  split <;> rfl

/-! ## A handler's end -/

/-- R191: past a script's last line, with a preempted frame on the stack. -/
theorem scriptEnd_of_saved {f : Frame} {r : List Frame} (hsaved : (s.coreOf c).saved = f :: r) :
    scriptEnd c s = .next (s.setCore c { s.coreOf c with frame := f, saved := r }) := by
  simp only [scriptEnd, hsaved]

/-- R13: a running core past its script's last line. -/
theorem coreStep_of_line_none (hline : (s.coreOf c).line = none) (hrun : (s.coreOf c).halted = false) :
    coreStep c s = scriptEnd c s := by
  simp [coreStep, hrun, hline]

/-- Settles O59: the two branches of `irqStep`, and `scriptEnd` with a frame on the stack. -/
theorem aMaskedCoreTakesNoHandler : Obligations.AMaskedCoreTakesNoHandler := by
  refine fun c s => ⟨fun hie => ?masked, fun hie hrun => ?entered, fun f r hline hrun hsaved => ?returned⟩
  case masked => exact irqStep_masked (s := s.setCur (.core c)) hie
  case entered =>
    have hstart := irqStep_enabled (s := s.setCur (.core c)) hie hrun
    obtain ⟨o, ho⟩ := drawHandler_snd s
    rw [drawHandler_setCur, ho] at hstart
    exact ⟨_, hstart, State.coreOf_setCore .., fun _ => ⟨rfl, rfl⟩, ⟨fun _ => rfl, rfl⟩, ⟨fun _ => rfl, rfl⟩,
      fun _ hc => State.coreOf_setCore_ne _ _ hc⟩
  case returned => exact (coreStep_of_line_none hline hrun).trans (scriptEnd_of_saved hsaved)

end Sys2Proof.Machine
end

section
/-! SUPPORT. The launch state (R41, R207): no engine is in a call, no controller has a command, no core has a claim, and nothing
has been written; so every invariant holds of it: obligation O52. -/

namespace Sys2Proof.Machine

open Sys2Proof.Config

/-! ## The parts at launch -/

theorem fifoOk_reset {p : Params} (hdepth : 1 ≤ p.TXQ_DEPTH) : FifoOk p .reset .reset :=
  .of_empty hdepth rfl (Nat.zero_le _) nofun

theorem addrOk_reset : AddrOk .reset .reset := ⟨nofun, nofun, nofun⟩

theorem countsOk_reset : CountsOk .reset := ⟨nofun, nofun⟩

/-- R41: the controller has no command waiting or in flight. -/
theorem Ctl.not_queued_reset : ¬ Ctl.reset.queued := by simp [Ctl.queued, Ctl.reset]

/-- R41: the engine is idle. -/
theorem Engine.not_inCall_reset : ¬ Engine.reset.inCall := by simp [Engine.inCall, Engine.reset]

theorem callOk_reset : CallOk .reset .reset :=
  .of_outside Engine.not_inCall_reset (absurd · Ctl.not_queued_reset)

theorem confOk_reset : ConfOk .reset .reset := ⟨nofun, nofun, nofun⟩

theorem Core.claims_launch (ie : Bool) (script : List ScriptLine) : (Core.launch ie script).claims = [] := rfl

/-! ## The invariants at launch -/

section Invariants

variable (l : Launch)

theorem State.dataInv_launch (hmem : l.mem.wf = true) : (State.launch l).DataInv :=
  ⟨hmem, fun c => by rw [State.coreOf_launch]; rfl⟩

/-- Nothing has been written and no write is announced. -/
theorem State.logInv_launch (hmem : l.mem.wf = true) : (State.launch l).LogInv :=
  ⟨hmem, nofun, nofun, .nil, .nil, nofun⟩

/-- Whatever `INITIAL_LOCKS` says: no core claims a lock. -/
theorem State.mutexInv_launch : (State.launch l).MutexInv :=
  (mutexInv_iff _).2 ⟨rfl, fun c => by
    rw [State.coreOf_launch, Core.claims_launch]
    exact ⟨.nil, nofun⟩⟩

theorem State.fifoInv_launch (hparams : l.params.wf = true) : (State.launch l).FifoInv := by
  have hdepth : 1 ≤ l.params.TXQ_DEPTH := of_decide_eq_true (Bool.and_elim_left hparams)
  refine (fifoInv_iff _).2 ⟨hdepth, fun b => ?_⟩
  rw [State.eng_launch, State.ctl_launch]
  exact fifoOk_reset hdepth

theorem State.addrInv_launch : (State.launch l).AddrInv :=
  (addrInv_iff _).2 fun b => by
    rw [State.eng_launch, State.ctl_launch]
    exact addrOk_reset

theorem State.countsInv_launch : (State.launch l).CountsInv :=
  (countsInv_iff _).2 fun b => by
    rw [State.ctl_launch]
    exact countsOk_reset

theorem State.writtenInv_launch : (State.launch l).WrittenInv :=
  (writtenInv_iff _).2 fun b => by
    rw [State.eng_launch, State.ctl_launch]
    exact ⟨callOk_reset, confOk_reset⟩

end Invariants

/-- Settles O52: the launch values are those of `Engine.reset`, `Ctl.reset` and `Core.launch`, and each invariant holds of
them. -/
theorem everyLaunchMeetsTheInvariants : Obligations.EveryLaunchMeetsTheInvariants := by
  refine fun l => ⟨fun b => ?buses, fun n => ?bank, rfl, fun c => ?cores, fun hmem hparams => ?invariants⟩
  case buses =>
    rw [State.eng_launch, State.ctl_launch]
    simp [Engine.reset, Ctl.reset, Con.unwritten]
  case bank => rw [State.lock_launch]
  case cores =>
    rw [State.coreOf_launch]
    exact ⟨rfl, rfl, rfl⟩
  case invariants =>
    exact ⟨State.dataInv_launch l hmem, State.logInv_launch l hmem, State.mutexInv_launch l,
      State.fifoInv_launch l hparams, State.addrInv_launch l, State.countsInv_launch l, State.writtenInv_launch l⟩

end Sys2Proof.Machine
end
